-- ==== Sys2Proof/Word.lean ====
section
/-! DEFINITION. The widths of the divider engine's ports, registers and words (spec/00_scope.md R6, R7, R12;
spec/30_encoding.md R65, R73). -/

namespace Sys2Proof

/-- An operand or a result: `XLEN = 32` bits (R6). -/
abbrev Word := BitVec 32

/-- The partial remainder: `REM_W = 33` bits, one guard bit above the 32-bit value (R7, R27). -/
abbrev Rem33 := BitVec 33

/-- The vector the engine samples at one clock edge (R65). -/
abbrev StepWord := BitVec 67

/-- A 32-bit instruction word of the enclosing pipeline (R73). -/
abbrev RvWord := BitVec 32

/-- A register specifier of an RV32M word: five bits (R73). -/
abbrev RegNo := BitVec 5

/-- What the upstream issue logic (the second agent of R164) presents at one clock edge: a step word it drives on the
engine's ports itself, or an instruction word of the enclosing pipeline that its decoder turns into one (R72). -/
inductive HostWord where
  | step (w : StepWord)
  | rv32 (w : RvWord)
  deriving DecidableEq, Repr

end Sys2Proof
end

