-- ==== Sys2Proof/Syntax.lean ====
section
/-! DEFINITION. The instructions: one constructor per row of spec/opcode_table.json. The four rows of the STEP format are
the engine's own operations (spec/30_encoding.md R67); the four RV32 rows are the instructions of the enclosing pipeline
that the engine serves (R72, R73). -/

namespace Sys2Proof

inductive Instr where
  /-- `RESET` (R180): every other bit of the word is a don't-care. -/
  | reset
  /-- `NOP` (R86): no request; the mode and operand bits are don't-cares. -/
  | nop
  /-- `DIVREQ.U dividend, divisor` (R93). -/
  | divreqU (dividend divisor : Word)
  /-- `DIVREQ.S dividend, divisor` (R94). -/
  | divreqS (dividend divisor : Word)
  /-- `DIV rd, rs1, rs2` (R72). -/
  | div (rd rs1 rs2 : RegNo)
  /-- `DIVU rd, rs1, rs2` (R72). -/
  | divu (rd rs1 rs2 : RegNo)
  /-- `REM rd, rs1, rs2` (R72). -/
  | rem (rd rs1 rs2 : RegNo)
  /-- `REMU rd, rs1, rs2` (R72). -/
  | remu (rd rs1 rs2 : RegNo)
  deriving DecidableEq, Repr

end Sys2Proof
end

