-- ==== Sys2Proof/WellFormed.lean ====
section
/-! DEFINITION. What is well formed. Operand widths are the types' own, so every term of Instr is well formed; the checks
that can fail are those on a word the host presents (spec/30_encoding.md R68, R73) and on an assembler line's literals and
repeat count (R71). -/

namespace Sys2Proof

/-- An instruction: all combinations of its operands are legal (R32, R68), so no check is left to make. -/
def Instr.wf : Instr → Bool
  | .reset => true
  | .nop => true
  | .divreqU _ _ => true
  | .divreqS _ _ => true
  | .div _ _ _ => true
  | .divu _ _ _ => true
  | .rem _ _ _ => true
  | .remu _ _ _ => true

/-- The fixed fields of the DIV family: `opcode = 0110011`, `funct7 = 0000001`, and `funct3` one of 100, 101, 110, 111,
that is, bit 14 set (R73). -/
def RvWord.isDivFamily (w : RvWord) : Bool :=
  w.extractLsb' 0 7 == 0x33#7 && w.extractLsb' 25 7 == 0x01#7 && w.getLsbD 14

/-- A word the host may present: every one of the 2^67 step words (R68), and the RV32 words of the DIV family (R73). -/
def HostWord.wf : HostWord → Bool
  | .step _ => true
  | .rv32 w => RvWord.isDivFamily w

/-- An assembler literal: "A literal outside `[-2^31, 2^32)` is rejected by the assembler" (R71). -/
def literalInRange (v : Int) : Bool :=
  decide (-2 ^ 31 ≤ v) && decide (v < 2 ^ 32)

/-- The count of the pseudo-instruction `NOP n`: n ≥ 1 (R71). -/
def nopCountOk (n : Nat) : Bool :=
  decide (1 ≤ n)

end Sys2Proof
end

