-- ==== Sys2Proof/Decode.lean ====
section
/-! DEFINITION. The decoder, total on every word the host can present (spec/30_encoding.md R67, R70, R73), the encoder
written from the same tables, and the host check's view of both. -/

namespace Sys2Proof

/-- Why a word is rejected. Only RV32 words can be: every step word has a meaning (R68). -/
inductive DecodeReject where
  /-- The RV32 word is none of DIV, DIVU, REM, REMU: the enclosing pipeline's decoder gives it to another unit. -/
  | notDivFamily (w : RvWord)
  deriving DecidableEq, Repr

/-- R65: field `a`, the dividend, bits 63:32. -/
def stepDividend (w : StepWord) : Word := w.extractLsb' 32 32

/-- R65: field `b`, the divisor, bits 31:0. -/
def stepDivisor (w : StepWord) : Word := w.extractLsb' 0 32

/-- R70: the decoder of step words. -/
def decodeStep (w : StepWord) : Instr :=
  if w.getLsbD 66 then .reset
  else if !w.getLsbD 65 then .nop
  else if !w.getLsbD 64 then .divreqU (stepDividend w) (stepDivisor w)
  else .divreqS (stepDividend w) (stepDivisor w)

/-- R73: `rd` in bits 11:7. -/
def rvRd (w : RvWord) : RegNo := w.extractLsb' 7 5

/-- R73: `rs1` in bits 19:15. -/
def rvRs1 (w : RvWord) : RegNo := w.extractLsb' 15 5

/-- R73: `rs2` in bits 24:20. -/
def rvRs2 (w : RvWord) : RegNo := w.extractLsb' 20 5

/-- R73: the mask of the four rows (`funct7`, `funct3` and `opcode`). -/
def rvMask : RvWord := 0xFE00707F#32

/-- R73: the four rows of the DIV family. -/
def decodeRv (w : RvWord) : Except DecodeReject Instr :=
  if w &&& rvMask = 0x02004033#32 then .ok (.div (rvRd w) (rvRs1 w) (rvRs2 w))
  else if w &&& rvMask = 0x02005033#32 then .ok (.divu (rvRd w) (rvRs1 w) (rvRs2 w))
  else if w &&& rvMask = 0x02006033#32 then .ok (.rem (rvRd w) (rvRs1 w) (rvRs2 w))
  else if w &&& rvMask = 0x02007033#32 then .ok (.remu (rvRd w) (rvRs1 w) (rvRs2 w))
  else .error (.notDivFamily w)

/-- The instruction a presented word stands for. -/
def decode : HostWord → Except DecodeReject Instr
  | .step w => .ok (decodeStep w)
  | .rv32 w => decodeRv w

/-- A word that means something and does not assert reset: a run goes on under it, whatever else it says (R110). -/
def HostWord.keepsRun (w : HostWord) : Bool :=
  match decode w with
  | .ok .reset => false
  | .ok _ => true
  | .error _ => false

/-- A step word with `r = 0` and `s = 0`: no request (R86). -/
def HostWord.isNop (w : HostWord) : Bool :=
  match decode w with
  | .ok .nop => true
  | _ => false

/-- R65: the step word with the given fields, `r s g a b` from bit 66 down to bit 0. -/
def stepWord (r s g : Bool) (a b : Word) : StepWord :=
  (BitVec.ofBool r ++ BitVec.ofBool s ++ BitVec.ofBool g ++ a ++ b : BitVec (1 + 1 + 1 + 32 + 32))

/-- R73: the R-type word `funct7 = 0000001, rs2, rs1, funct3, rd, opcode = 0110011` from bit 31 down to bit 0. -/
def rvWord (funct3 : BitVec 3) (rd rs1 rs2 : RegNo) : RvWord :=
  (0b0000001#7 ++ rs2 ++ rs1 ++ funct3 ++ rd ++ 0b0110011#7 : BitVec (7 + 5 + 5 + 3 + 5 + 7))

/-- The word of an instruction; don't-care bits are 0 (log entry 14). -/
def encode : Instr → HostWord
  | .reset => .step (stepWord true false false 0#32 0#32)
  | .nop => .step (stepWord false false false 0#32 0#32)
  | .divreqU a b => .step (stepWord false true false a b)
  | .divreqS a b => .step (stepWord false true true a b)
  | .div rd rs1 rs2 => .rv32 (rvWord 0b100#3 rd rs1 rs2)
  | .divu rd rs1 rs2 => .rv32 (rvWord 0b101#3 rd rs1 rs2)
  | .rem rd rs1 rs2 => .rv32 (rvWord 0b110#3 rd rs1 rs2)
  | .remu rd rs1 rs2 => .rv32 (rvWord 0b111#3 rd rs1 rs2)

/-- A row of the opcode table: mnemonic, mask and match, over the row's own word length. -/
structure OpcodeRow (n : Nat) where
  mnemonic : String
  mask : BitVec n
  value : BitVec n
  deriving DecidableEq, Repr

/-- The word has the row's fixed bits. -/
def OpcodeRow.covers {n : Nat} (row : OpcodeRow n) (w : BitVec n) : Bool :=
  w &&& row.mask == row.value

/-- R67: the four rows over the 67-bit word. -/
def stepRows : List (OpcodeRow 67) :=
  [⟨"RESET", 0x40000000000000000#67, 0x40000000000000000#67⟩,
   ⟨"NOP", 0x60000000000000000#67, 0x00000000000000000#67⟩,
   ⟨"DIVREQ.U", 0x70000000000000000#67, 0x20000000000000000#67⟩,
   ⟨"DIVREQ.S", 0x70000000000000000#67, 0x30000000000000000#67⟩]

/-- R73: the four rows over the 32-bit word. -/
def rvRows : List (OpcodeRow 32) :=
  [⟨"DIV", 0xFE00707F#32, 0x02004033#32⟩, ⟨"DIVU", 0xFE00707F#32, 0x02005033#32⟩,
   ⟨"REM", 0xFE00707F#32, 0x02006033#32⟩, ⟨"REMU", 0xFE00707F#32, 0x02007033#32⟩]

/-- The instruction's name in the opcode table. -/
def Instr.mnemonic : Instr → String
  | .reset => "RESET"
  | .nop => "NOP"
  | .divreqU _ _ => "DIVREQ.U"
  | .divreqS _ _ => "DIVREQ.S"
  | .div _ _ _ => "DIV"
  | .divu _ _ _ => "DIVU"
  | .rem _ _ _ => "REM"
  | .remu _ _ _ => "REMU"

/-- The presented word whose bits are `w`, for a table row of `nbits` bits in whole bytes: the RV32 rows have 32 bits, the
STEP rows 67 (nine bytes). Bits the format does not have are dropped (log entry 15). -/
def hostWordOf (nbits w : Nat) : HostWord :=
  if nbits ≤ 32 then .rv32 (BitVec.ofNat 32 w) else .step (BitVec.ofNat 67 w)

/-- A number has no bit above its format's width (log entry 15). -/
def fitsFormat (nbits w : Nat) : Bool :=
  if nbits ≤ 32 then decide (w < 2 ^ 32) else decide (w < 2 ^ 67)

/-- What the decoder reads from a table word; none where it rejects the word or the number is too wide for its format. -/
def decodeTableWord (nbits w : Nat) : Option Instr :=
  if fitsFormat nbits w then (decode (hostWordOf nbits w)).toOption else none

end Sys2Proof
end

