-- ==== Sys2Proof/Config.lean ====
section
/-! DEFINITION. What is fixed for the block (spec/00_scope.md R8) and the free values: what the spec leaves open, each an
opaque constant applied to the draw counter of State, so that every use is a fresh draw and no proof can see its value. -/

namespace Sys2Proof.Config

/-- Restoring sub-steps per clock step (R8). -/
def bitsPerStep : Nat := 2

/-- The value of the cycle counter at the completing step: `STEPS - 1 = 15` (R8, R130). -/
def lastCycle : BitVec 4 := 15#4

/-! `DATAPATH_RESET`: what each datapath register holds after a reset step, "a free input (a draw) under no law"
(R9, R37, R180; log entry 2). -/

opaque resetSignedReg : Nat → Bool
opaque resetDvdMag : Nat → Word
opaque resetDvsMag : Nat → Word
opaque resetRem : Nat → Rem33
opaque resetQuo : Nat → Word
opaque resetSignQ : Nat → Bool
opaque resetSignR : Nat → Bool
opaque resetDbz : Nat → Bool

/-- The output `quotient` in a snapshot with `busy = 1`: a fresh draw per snapshot (R35; log entry 4). -/
opaque busyQuotient : Nat → Word

/-- The output `remainder` in a snapshot with `busy = 1`: a fresh draw per snapshot (R35; log entry 4). -/
opaque busyRemainder : Nat → Word

/-- The step word the host presents at an edge for which State lists none: the host chooses it and no rule says which
(R74, R164; log entry 5). -/
opaque hostStepWord : Nat → StepWord

end Sys2Proof.Config
end

