-- ==== Sys2Proof/Machine/State.lean ====
section
/-! DEFINITION. The state: the engine's eleven registers (spec/10_state.md R20), and beside them what the second agent, the
upstream issue logic (spec/60_exceptions.md R164), holds; the reasons a step can stop; the state after reset. -/

namespace Sys2Proof.Machine

/-- R20: "A Lean model's state record has these eleven fields and no more." -/
structure Engine where
  /-- R21: a request with a non-zero divisor is in its iterative phase. -/
  busy : Bool
  /-- R22: the completion pulse. -/
  done : Bool
  /-- R23: the iteration counter, 0..15. -/
  cycle : BitVec 4
  /-- R24: the mode of the last accepted request. -/
  signedReg : Bool
  /-- R25: the dividend magnitude. -/
  dvdMag : Word
  /-- R26: the divisor magnitude. -/
  dvsMag : Word
  /-- R27: the partial remainder, then the remainder. -/
  rem : Rem33
  /-- R28: the partial quotient, then the quotient. -/
  quo : Word
  /-- R29: the quotient sign latch. -/
  signQ : Bool
  /-- R30: the remainder sign latch. -/
  signR : Bool
  /-- R31: the divide-by-zero flag. -/
  dbz : Bool
  deriving DecidableEq, Repr

/-- R32: the values at the five input ports at one clock edge. -/
structure Inputs where
  reset : Bool
  start : Bool
  signed : Bool
  dividend : Word
  divisor : Word
  deriving DecidableEq, Repr

/-- R33: the registered outputs in one snapshot. -/
structure Outputs where
  busy : Bool
  done : Bool
  quotient : Word
  remainder : Word
  divideByZero : Bool
  deriving DecidableEq, Repr

/-- R41: the phases of the sign-correction FSM. -/
inductive Phase where
  | idle
  | done
  | run (c : BitVec 4)
  | unreachable
  deriving DecidableEq, Repr

/-- R72, R143: which of the two results the writeback path consumes. -/
inductive ResultSel where
  | quotient
  | remainder
  deriving DecidableEq, Repr

/-- The instruction whose request the engine has accepted and whose result is awaited: its destination register and the
result it consumes (R72; log entry 8). -/
structure Writeback where
  rd : RegNo
  sel : ResultSel
  deriving DecidableEq, Repr

/-- What the enclosing pipeline's result register holds: the result its writeback path consumes, "together with
`divideByZero`" (R143; log entry 20). -/
structure Captured where
  value : Word
  divideByZero : Bool
  deriving DecidableEq, Repr

/-- The enclosing pipeline as far as the four RV32M rows reach it (R72, R73; log entry 8). It is no state of the engine
(R39). -/
structure Upstream where
  /-- The general registers the RV32M words name. -/
  xregs : Vector Word 32
  /-- The accepted instruction whose result has not been captured yet. -/
  inFlight : Option Writeback
  /-- R143: the result register, as last captured (log entry 20). -/
  captured : Captured
  deriving DecidableEq, Repr

structure State where
  /-- The block the spec describes. -/
  engine : Engine
  /-- The enclosing pipeline's side of the four RV32M rows. -/
  upstream : Upstream
  /-- The words the host presents at the coming clock edges, oldest first (R164, R167; log entry 6). -/
  pending : List HostWord
  /-- How many clock edges have passed: the index of the next fresh draw (log entry 3). -/
  draws : Nat
  deriving DecidableEq, Repr

/-- The engine has no fault: "A Lean model of the engine has no fault outcome and no refusal outcome for any step word"
(R155). No step raises one (log entry 16). -/
inductive Fault where
  deriving DecidableEq, Repr

inductive Refusal where
  /-- Raised by exec's arm of an instruction that has no meaning yet; no arm does. Safe: the run stops. -/
  | notModelled (mnemonic : String)
  /-- Raised by step when the host presents an RV32 word that is none of DIV, DIVU, REM, REMU: it belongs to another unit
  of the enclosing pipeline, out of the spec's scope (R5; log entry 12). Safe: the run stops where the pipeline goes on. -/
  | notDivFamily (w : RvWord)
  deriving DecidableEq, Repr

/-- The engine right after a reset step (R37): control registers 0, every datapath register `DATAPATH_RESET`, the draw
of index `n`. -/
def Engine.afterReset (n : Nat) : Engine where
  busy := false
  done := false
  cycle := 0#4
  signedReg := Config.resetSignedReg n
  dvdMag := Config.resetDvdMag n
  dvsMag := Config.resetDvsMag n
  rem := Config.resetRem n
  quo := Config.resetQuo n
  signQ := Config.resetSignQ n
  signR := Config.resetSignR n
  dbz := Config.resetDbz n

/-- The enclosing pipeline before its first instruction: registers 0 and nothing awaited (log entry 8), the
result register 0 (log entry 20). -/
def Upstream.initial : Upstream where
  xregs := Vector.replicate 32 0#32
  inFlight := none
  captured := ⟨0#32, false⟩

/-- The machine right after reset (R37, R183); the host has presented nothing more yet (log entries 2, 3, 6, 8, 20). -/
def State.reset : State where
  engine := Engine.afterReset 0
  upstream := Upstream.initial
  pending := []
  draws := 1

/-- Power-on: before the first reset step every register is unspecified, so the engine is the argument, "a draw over all
139 bits" (R182). -/
def State.powerOn (e : Engine) : State where
  engine := e
  upstream := Upstream.initial
  pending := []
  draws := 0

end Sys2Proof.Machine
end

