-- ==== Sys2Proof/Machine/Operands.lean ====
section
/-! DEFINITION. Operand forms: the sign and magnitude preprocessing (spec/40_request.md R90 to R92), the sign correction
(spec/42_completion.md R132 to R134) and the enclosing pipeline's register operands (spec/30_encoding.md R72, R73). -/

namespace Sys2Proof.Machine

/-- R13: 32-bit two's-complement negation. -/
def neg32 (v : Word) : Word := BitVec.ofNat 32 (2 ^ 32 - v.toNat)

/-- R90: the operand is negative: signed mode and bit 31 set. -/
def opNegative (g : Bool) (v : Word) : Bool := g && v.getLsbD 31

/-- R91: the operand's magnitude. -/
def magnitude (g : Bool) (v : Word) : Word := if opNegative g v then neg32 v else v

/-- R92: `sQ`, the quotient sign. -/
def quotientSign (g : Bool) (a b : Word) : Bool := g && (opNegative g a ^^ opNegative g b)

/-- R92: `sR`, the remainder sign. -/
def remainderSign (g : Bool) (a : Word) : Bool := g && opNegative g a

/-- R132, R133, R134: the magnitude is negated if its sign latch is set and it is not zero. -/
def signCorrect (sign : Bool) (m : Word) : Word := if sign = true ∧ m ≠ 0#32 then neg32 m else m

/-- A register operand; x0 reads as zero (log entry 8). -/
def Upstream.readX (u : Upstream) (r : RegNo) : Word :=
  if r = 0#5 then 0#32 else u.xregs[r.toNat]'r.isLt

/-- A register write; x0 discards it (log entry 8). -/
def Upstream.writeX (u : Upstream) (r : RegNo) (v : Word) : Upstream :=
  if r = 0#5 then u else { u with xregs := u.xregs.set r.toNat v r.isLt }

/-- R72, R143: the result the writeback path consumes; `remainder` is `rem[31:0]` (R33). -/
def ResultSel.pick (sel : ResultSel) (e : Engine) : Word :=
  match sel with
  | .quotient => e.quo
  | .remainder => e.rem.extractLsb' 0 32

/-- R143: what is captured of a snapshot: the result consumed, together with the output `divideByZero` (R33). -/
def ResultSel.capturedFrom (sel : ResultSel) (e : Engine) : Captured := ⟨sel.pick e, e.dbz⟩

end Sys2Proof.Machine
end

