-- ==== Sys2Proof/Machine/Flags.lean ====
section
/-! DEFINITION. The conditions and status the engine shows: acceptance (spec/10_state.md R34), the phase (R41) and the
registered outputs (R33, R35). -/

namespace Sys2Proof.Machine

/-- R34, R87: the combinational output `accepted = in.start AND NOT busy AND NOT in.reset`. -/
def accepts (p : Inputs) (e : Engine) : Bool := p.start && !e.busy && !p.reset

/-- R96, R156: the divide-by-zero condition, tested on the raw divisor bits. -/
def isZeroDivisor (b : Word) : Bool := b == 0#32

/-- R41: the phase the control registers stand for. R41's row DONE has `cycle = 0`, and no row covers `busy = 0`, `done = 1`
with another `cycle`, which only a power-on engine can hold (R182). DESIGN CHOICE (log entry 21): that is `done` too. -/
def Engine.phase (e : Engine) : Phase :=
  match e.busy, e.done with
  | false, false => .idle
  | false, true => .done
  | true, false => .run e.cycle
  | true, true => .unreachable

/-- R33, R35: the outputs of a snapshot. While `busy = 1` the two result outputs are fresh draws (log entry 4). -/
def State.outputs (s : State) : Outputs where
  busy := s.engine.busy
  done := s.engine.done
  quotient := bif s.engine.busy then Config.busyQuotient s.draws else ResultSel.quotient.pick s.engine
  remainder := bif s.engine.busy then Config.busyRemainder s.draws else ResultSel.remainder.pick s.engine
  divideByZero := s.engine.dbz

end Sys2Proof.Machine
end

