-- ==== Sys2Proof/Machine/Ops.lean ====
section
/-! DEFINITION. The shared operations: the restoring sub-step (spec/41_iteration.md R112), the step kinds of the engine and
their priority (spec/40_request.md R85), one clock edge of the whole machine, and the host's choice of the next word. The
spec describes no exception: there is no trap entry and no return to write (spec/60_exceptions.md R155, R160, R161). -/

namespace Sys2Proof.Machine

/-- R112: `SUB`, one restoring sub-step on dividend bit `i`, with the exact comparison of R113. -/
def subStep (dvd dvs : Word) (r : Rem33) (q : Word) (i : Nat) : Rem33 × Word :=
  let sh : Rem33 := (r.extractLsb' 0 32 ++ BitVec.ofBool (dvd.getLsbD i) : BitVec (32 + 1))
  if dvs.toNat ≤ sh.toNat then (sh - dvs.setWidth 33, q ||| (1#32 <<< i)) else (sh, q)

/-- R111: the first dividend bit of a step, `31 - 2c`. -/
def firstBit (c : BitVec 4) : Nat := 31 - Config.bitsPerStep * c.toNat

/-- R111: the second dividend bit of a step, `30 - 2c`. -/
def secondBit (c : BitVec 4) : Nat := 30 - Config.bitsPerStep * c.toNat

/-- R114, R115: the two sub-steps of the step with the engine's `cycle`, the second on the first one's result. -/
def twoSubSteps (e : Engine) : Rem33 × Word :=
  let first := subStep e.dvdMag e.dvsMag e.rem e.quo (firstBit e.cycle)
  subStep e.dvdMag e.dvsMag first.1 first.2 (secondBit e.cycle)

/-- R114: `ITERATE_STEP(c)` for c < 15. -/
def iterateStep (e : Engine) : Engine :=
  { e with
    rem := (twoSubSteps e).1
    quo := (twoSubSteps e).2
    cycle := e.cycle + 1#4
    done := false }

/-- R130: `COMPLETE_STEP`, the step with `cycle = 15`. -/
def completeStep (e : Engine) : Engine :=
  { e with
    quo := signCorrect e.signQ (twoSubSteps e).2
    rem := (signCorrect e.signR ((twoSubSteps e).1.extractLsb' 0 32)).setWidth 33
    busy := false
    done := true
    cycle := 0#4 }

/-- R95: the acceptance of a request with a non-zero divisor; it writes every register. -/
def acceptRun (g : Bool) (a b : Word) : Engine where
  signedReg := g
  dvdMag := magnitude g a
  dvsMag := magnitude g b
  signQ := quotientSign g a b
  signR := remainderSign g a
  dbz := false
  quo := 0#32
  rem := 0#33
  cycle := 0#4
  busy := true
  done := false

/-- R96: the divide-by-zero short-circuit; it writes every register. -/
def acceptZero (g : Bool) (a b : Word) : Engine where
  signedReg := g
  dvdMag := magnitude g a
  dvsMag := magnitude g b
  signQ := quotientSign g a b
  signR := remainderSign g a
  dbz := true
  quo := 0xFFFFFFFF#32
  rem := a.setWidth 33
  cycle := 0#4
  busy := false
  done := true

/-- R95, R96: `ACCEPT(signed, dividend, divisor)`. -/
def accept (g : Bool) (a b : Word) : Engine :=
  if isZeroDivisor b then acceptZero g a b else acceptRun g a b

/-- R137: `IDLE_STEP`. -/
def idleStep (e : Engine) : Engine := { e with done := false }

/-- R180: `RESET_STEP`; the datapath registers take the draw of index `n`. -/
def resetStep (n : Nat) : Engine := Engine.afterReset n

/-- R85, R159: one rising clock edge of the engine, in the spec's priority order. -/
def Engine.edge (n : Nat) (p : Inputs) (e : Engine) : Engine :=
  if p.reset then resetStep n
  else if e.busy then (if e.cycle = Config.lastCycle then completeStep e else iterateStep e)
  else if p.start then accept p.signed p.dividend p.divisor
  else idleStep e

/-- Input ports with the reset asserted (R180). The other ports are don't-cares; they are shown as 0. -/
def Inputs.resetting : Inputs := ⟨true, false, false, 0#32, 0#32⟩

/-- Input ports with no request (R86). The mode and operand ports are don't-cares; they are shown as 0. -/
def Inputs.noRequest : Inputs := ⟨false, false, false, 0#32, 0#32⟩

/-- Input ports that present a request (R93, R94). -/
def Inputs.request (g : Bool) (a b : Word) : Inputs := ⟨false, true, g, a, b⟩

/-- What the pipeline awaits after an edge: an accepted request replaces it by its own destination, reset drops it
(R181; log entry 11), a lost request leaves it alone (R88; log entry 10). -/
def Upstream.track (u : Upstream) (p : Inputs) (accepted : Bool) (dest : Option Writeback) : Upstream :=
  if p.reset then { u with inFlight := none }
  else if accepted then { u with inFlight := dest }
  else u

/-- The awaited instruction ends: the result register takes what was captured (log entry 20), and the destination register
its value (log entry 9). -/
def Upstream.receive (u : Upstream) (rd : RegNo) (c : Captured) : Upstream :=
  { u.writeX rd c.value with inFlight := none, captured := c }

/-- R72, R143: in the snapshot with `done = 1` the pipeline captures the awaited result, together with `divideByZero` (log
entries 9, 20). -/
def Upstream.capture (u : Upstream) (e : Engine) : Upstream :=
  if e.done then
    match u.inFlight with
    | none => u
    | some wb => u.receive wb.rd (wb.sel.capturedFrom e)
  else u

/-- One clock edge of the machine: the engine steps on the given input ports, and the pipeline follows the handshake. `dest`
is where the presented request's result goes, if the pipeline issued it for an instruction. -/
def clock (p : Inputs) (dest : Option Writeback) (s : State) : State :=
  let e := s.engine.edge s.draws p
  { s with
    engine := e
    upstream := (s.upstream.track p (accepts p s.engine) dest).capture e
    draws := s.draws + 1 }

/-- The word the host presents at the coming edge: the oldest listed one, or one the host chooses freely (log entry 5). -/
def State.presented (s : State) : HostWord :=
  match s.pending with
  | [] => .step (Config.hostStepWord s.draws)
  | w :: _ => w

/-- The presented word is consumed by its edge. -/
def State.consumed (s : State) : State := { s with pending := s.pending.tail }

end Sys2Proof.Machine
end

