-- ==== Sys2Proof/Machine/Request.lean ====
section
/-! DEFINITION. The meanings of NOP, DIVREQ.U and DIVREQ.S (spec/40_request.md R86, R93, R94). -/

namespace Sys2Proof.Machine

/-- R86: no request; the engine iterates if busy, else idles. -/
def execNop (s : State) : Host.Outcome State Fault Refusal :=
  .next (clock Inputs.noRequest none s)

/-- R93: an unsigned request, accepted if the engine is not busy. -/
def execDivreqU (a b : Word) (s : State) : Host.Outcome State Fault Refusal :=
  .next (clock (Inputs.request false a b) none s)

/-- R94: a signed request, accepted if the engine is not busy. -/
def execDivreqS (a b : Word) (s : State) : Host.Outcome State Fault Refusal :=
  .next (clock (Inputs.request true a b) none s)

end Sys2Proof.Machine
end

