-- ==== Sys2Proof/Machine/Reset.lean ====
section
/-! DEFINITION. The meaning of RESET (spec/70_reset_and_hazards.md R180). -/

namespace Sys2Proof.Machine

/-- R180: a reset step in any phase. -/
def execReset (s : State) : Host.Outcome State Fault Refusal :=
  .next (clock Inputs.resetting none s)

end Sys2Proof.Machine
end

