-- ==== Sys2Proof/Machine/RiscvDiv.lean ====
section
/-! DEFINITION. The meanings of DIV, DIVU, REM and REMU (spec/30_encoding.md R72): at one clock edge the enclosing pipeline
presents the request the table names, on the contents of rs1 (dividend) and rs2 (divisor) (log entry 7), and the result the
table names goes to rd in the request's `done` snapshot (log entry 9). -/

namespace Sys2Proof.Machine

/-- The edge at which an instruction of the DIV family is issued. -/
def issue (g : Bool) (sel : ResultSel) (rd rs1 rs2 : RegNo) (s : State) : State :=
  clock (Inputs.request g (s.upstream.readX rs1) (s.upstream.readX rs2)) (some ⟨rd, sel⟩) s

/-- R72: `DIV` issues `DIVREQ.S` and consumes `quotient`. -/
def execDiv (rd rs1 rs2 : RegNo) (s : State) : Host.Outcome State Fault Refusal :=
  .next (issue true .quotient rd rs1 rs2 s)

/-- R72: `DIVU` issues `DIVREQ.U` and consumes `quotient`. -/
def execDivu (rd rs1 rs2 : RegNo) (s : State) : Host.Outcome State Fault Refusal :=
  .next (issue false .quotient rd rs1 rs2 s)

/-- R72: `REM` issues `DIVREQ.S` and consumes `remainder`. -/
def execRem (rd rs1 rs2 : RegNo) (s : State) : Host.Outcome State Fault Refusal :=
  .next (issue true .remainder rd rs1 rs2 s)

/-- R72: `REMU` issues `DIVREQ.U` and consumes `remainder`. -/
def execRemu (rd rs1 rs2 : RegNo) (s : State) : Host.Outcome State Fault Refusal :=
  .next (issue false .remainder rd rs1 rs2 s)

end Sys2Proof.Machine
end

