-- ==== Sys2Proof/Machine/Ports.lean ====
section
/-! DEFINITION. What each instruction drives on the engine's input ports (spec/10_state.md R32; spec/30_encoding.md R67,
R72), the destination it names, and the combinational output `accepted` (spec/10_state.md R34). -/

namespace Sys2Proof.Machine

/-- The input ports at the edge that runs the instruction. -/
def portsOf (i : Instr) (s : State) : Inputs :=
  match i with
  | .reset => Inputs.resetting
  | .nop => Inputs.noRequest
  | .divreqU a b => Inputs.request false a b
  | .divreqS a b => Inputs.request true a b
  | .div _ rs1 rs2 => Inputs.request true (s.upstream.readX rs1) (s.upstream.readX rs2)
  | .divu _ rs1 rs2 => Inputs.request false (s.upstream.readX rs1) (s.upstream.readX rs2)
  | .rem _ rs1 rs2 => Inputs.request true (s.upstream.readX rs1) (s.upstream.readX rs2)
  | .remu _ rs1 rs2 => Inputs.request false (s.upstream.readX rs1) (s.upstream.readX rs2)

/-- Where the result of the instruction's request goes: a register for the RV32M rows (R72), the host's own reading of the
outputs for the step words. -/
def destOf : Instr → Option Writeback
  | .reset => none
  | .nop => none
  | .divreqU _ _ => none
  | .divreqS _ _ => none
  | .div rd _ _ => some ⟨rd, .quotient⟩
  | .divu rd _ _ => some ⟨rd, .quotient⟩
  | .rem rd _ _ => some ⟨rd, .remainder⟩
  | .remu rd _ _ => some ⟨rd, .remainder⟩

/-- R34: the output `accepted` while the coming edge's word is presented. A word that is no request is not accepted. -/
def State.acceptedOutput (s : State) : Bool :=
  match decode s.presented with
  | .ok i => accepts (portsOf i s) s.engine
  | .error _ => false

end Sys2Proof.Machine
end

