-- ==== Sys2Proof/Machine/Step.lean ====
section
/-! DEFINITION. One step: one rising clock edge (spec/00_scope.md R15, spec/40_request.md R85) at which the word the host
presents is sampled. -/

namespace Sys2Proof.Machine

/-- R85, R164: the presented word is decoded and consumed, and its instruction runs. -/
def step (s : State) : Host.Outcome State Fault Refusal :=
  match decode s.presented with
  | .ok i => exec i s.consumed
  | .error (.notDivFamily w) => .refused (.notDivFamily w)

/-- The table word, put in front of what the host presents: the very next step samples it (log entry 6). -/
def State.withFetchWord (s : State) (nbits w : Nat) : State :=
  { s with pending := hostWordOf nbits w :: s.pending }

end Sys2Proof.Machine
end

