-- ==== Sys2Proof/Machine/Assembler.lean ====
section
/-! DEFINITION. The assembler notation for sequences of steps (spec/30_encoding.md R71): its lines, their expansion into words,
and the reading of a line's text (log entry 17). -/

namespace Sys2Proof.Machine

/-- R71: one line, or one pseudo-instruction. -/
inductive AsmLine where
  | reset
  | nop
  | divreqU (a b : Int)
  | divreqS (a b : Int)
  /-- `NOP n`: n consecutive NOP lines. -/
  | nops (n : Nat)
  /-- `DIVU.RUN a, b`: `DIVREQ.U a, b` then `NOP 16`. -/
  | divuRun (a b : Int)
  /-- `DIV.RUN a, b`: `DIVREQ.S a, b` then `NOP 16`. -/
  | divRun (a b : Int)
  deriving DecidableEq, Repr

/-- R71: the 32 bits a literal stands for; a negative one stands for its two's-complement pattern. -/
def literalBits (v : Int) : Word := BitVec.ofInt 32 v

/-- R71: what the assembler does not reject. -/
def AsmLine.wf : AsmLine → Bool
  | .reset => true
  | .nop => true
  | .divreqU a b => literalInRange a && literalInRange b
  | .divreqS a b => literalInRange a && literalInRange b
  | .nops n => nopCountOk n
  | .divuRun a b => literalInRange a && literalInRange b
  | .divRun a b => literalInRange a && literalInRange b

/-- R71: the instructions a line expands to, one per step. -/
def AsmLine.expand : AsmLine → List Instr
  | .reset => [.reset]
  | .nop => [.nop]
  | .divreqU a b => [.divreqU (literalBits a) (literalBits b)]
  | .divreqS a b => [.divreqS (literalBits a) (literalBits b)]
  | .nops n => List.replicate n .nop
  | .divuRun a b => .divreqU (literalBits a) (literalBits b) :: List.replicate 16 .nop
  | .divRun a b => .divreqS (literalBits a) (literalBits b) :: List.replicate 16 .nop

/-- R71: the words of a line, or none where the assembler rejects it. -/
def assembleLine (l : AsmLine) : Option (List HostWord) :=
  if l.wf then some (l.expand.map encode) else none

/-- R71: the words of a list of lines, or none where the assembler rejects one. -/
def assemble : List AsmLine → Option (List HostWord)
  | [] => some []
  | l :: rest =>
    match assembleLine l, assemble rest with
    | some ws, some more => some (ws ++ more)
    | _, _ => none

/-! ### The text of a line -/

/-- The value of a decimal or hexadecimal digit, below the base. -/
def digitValue (base : Nat) (c : Char) : Option Nat :=
  let n := c.toNat
  let v := if 48 ≤ n ∧ n ≤ 57 then n - 48 else if 97 ≤ n ∧ n ≤ 102 then n - 87 else if 65 ≤ n ∧ n ≤ 70 then n - 55 else base
  if v < base then some v else none

/-- The number a list of digits stands for, added to what was read before. -/
def readDigits (base acc : Nat) : List Char → Option Nat
  | [] => some acc
  | c :: rest =>
    match digitValue base c with
    | some v => readDigits base (base * acc + v) rest
    | none => none

/-- One digit or more. -/
def readNat (base : Nat) (cs : List Char) : Option Nat :=
  if cs.isEmpty then none else readDigits base 0 cs

/-- R71: "Operands are decimal or `0x` hexadecimal literals"; a decimal one may be negative. -/
def readLiteral : List Char → Option Int
  | '-' :: cs => (readNat 10 cs).map (fun n => -(n : Int))
  | '0' :: 'x' :: cs => (readNat 16 cs).map (fun n => (n : Int))
  | cs => (readNat 10 cs).map (fun n => (n : Int))

/-- A text without the spaces around it; spaces inside it stay (log entry 17). -/
def trimSpaces (cs : List Char) : List Char :=
  ((cs.dropWhile (fun c => c == ' ')).reverse.dropWhile (fun c => c == ' ')).reverse

/-- An operand: a literal with spaces around it or none. A space inside a literal is no digit, so it rejects the line.
DESIGN CHOICE (log entry 17): R71 says nothing of spaces. -/
def readOperand (cs : List Char) : Option Int := readLiteral (trimSpaces cs)

/-- The count of `NOP <n>`. DESIGN CHOICE (log entry 17): R71 does not say whether n is an operand; it is read as one, decimal
or `0x` hexadecimal, and a negative one is rejected. -/
def readCount (cs : List Char) : Option Nat :=
  match readOperand cs with
  | some v => if 0 ≤ v then some v.toNat else none
  | none => none

/-- Two operands with a comma between them. -/
def readPair (cs : List Char) : Option (Int × Int) :=
  match readOperand (cs.takeWhile (fun c => c != ',')), cs.dropWhile (fun c => c != ',') with
  | some a, ',' :: rest => (readOperand rest).map (fun b => (a, b))
  | _, _ => none

/-- R71: the line a text stands for: a mnemonic, then its operands; a comment starts at a semicolon. None where the text is
no line of the notation (log entry 17: what the text may hold beside R71's own words). -/
def readLine (text : List Char) : Option AsmLine :=
  let code := (text.takeWhile (fun c => c != ';')).dropWhile (fun c => c == ' ')
  let name := code.takeWhile (fun c => c != ' ')
  let operands := trimSpaces (code.dropWhile (fun c => c != ' '))
  if name = ['R', 'E', 'S', 'E', 'T'] then
    if operands.isEmpty then some .reset else none
  else if name = ['N', 'O', 'P'] then
    if operands.isEmpty then some .nop else (readCount operands).map .nops
  else if name = ['D', 'I', 'V', 'R', 'E', 'Q', '.', 'U'] then (readPair operands).map (fun p => .divreqU p.1 p.2)
  else if name = ['D', 'I', 'V', 'R', 'E', 'Q', '.', 'S'] then (readPair operands).map (fun p => .divreqS p.1 p.2)
  else if name = ['D', 'I', 'V', 'U', '.', 'R', 'U', 'N'] then (readPair operands).map (fun p => .divuRun p.1 p.2)
  else if name = ['D', 'I', 'V', '.', 'R', 'U', 'N'] then (readPair operands).map (fun p => .divRun p.1 p.2)
  else none

/-- R71: the words of a program's text, one line per entry, or none where a line is rejected. -/
def assembleText : List (List Char) → Option (List HostWord)
  | [] => some []
  | text :: rest =>
    match readLine text, assembleText rest with
    | some l, some more => (assembleLine l).map (fun ws => ws ++ more)
    | _, _ => none

end Sys2Proof.Machine
end

