-- ==== Sys2Proof/Safety.lean ====
section
/-! DEFINITION. The words claims are stated in: a request of either mode, k steps in a row, and
the invariant of a state that a reset step has led to (spec/10_state.md R36, R40; spec/41_iteration.md R117, R118). -/

namespace Sys2Proof.Machine

/-- The request word's instruction in mode `g` (R67): unsigned if 0, signed if 1. -/
def request (g : Bool) (a b : Word) : Instr := if g then .divreqS a b else .divreqU a b

/-- The step word of a request (R65). -/
def requestWord (g : Bool) (a b : Word) : HostWord := .step (stepWord false true g a b)

/-- `k` steps from `s` lead to `t`. -/
def RunsTo (k : Nat) (s t : State) : Prop := Host.Core.run core k s = .next t

/-- The bits of the dividend magnitude that are still to come after `c` iteration steps: `t = 32 - 2k` of R118. -/
def bitsToCome (c : BitVec 4) : Nat := 32 - Config.bitsPerStep * c.toNat

/-- What every snapshot after the first reset satisfies, of the engine alone. -/
structure Engine.Inv (e : Engine) : Prop where
  /-- R36. -/
  exclusive : e.busy = true → e.done = false
  /-- R41: `DONE` has `cycle = 0`. -/
  doneCycle : e.done = true → e.cycle = 0#4
  /-- R40, item 3, in the snapshot of the completion. -/
  doneGuardBit : e.done = true → e.rem.getLsbD 32 = false
  /-- R40, item 1. -/
  divisorNonzero : e.busy = true → e.dvsMag ≠ 0#32
  /-- R118: the remainder of the dividend bits consumed so far. -/
  partialRemainder : e.busy = true →
    e.rem.toNat = e.dvdMag.toNat / 2 ^ bitsToCome e.cycle % e.dvsMag.toNat
  /-- R118: the quotient of the dividend bits consumed so far, in its place. -/
  partialQuotient : e.busy = true →
    e.quo.toNat = e.dvdMag.toNat / 2 ^ bitsToCome e.cycle / e.dvsMag.toNat * 2 ^ bitsToCome e.cycle
  /-- R31: `dbz` reads 0 during a run. -/
  flagClear : e.busy = true → e.dbz = false
  /-- R92: in unsigned mode neither sign latch is set. -/
  unsignedLatches : e.busy = true → e.signedReg = false → e.signQ = false ∧ e.signR = false

/-- The engine's invariant, and: the pipeline awaits a result only while the engine runs (log entry 8). -/
structure State.Inv (s : State) : Prop where
  engine : s.engine.Inv
  awaited : s.upstream.inFlight.isSome = true → s.engine.busy = true

end Sys2Proof.Machine
end

