-- ==== Sys2Proof/Certificates/Slice0/Obligations.lean ====
section
/-! DEFINITION. The statements for the provers. R<n> is a rule of spec/; "log <n>" is notes/assumptions/<n>.md. -/

open Sys2Proof Sys2Proof.Machine

/-! ### Encoding -/

/-- R65: the layout `r s g a b` of the step word, both ways. -/
def Obligations.StepWordLayout : Prop :=
  (∀ (r s g : Bool) (a b : Word),
    (stepWord r s g a b).getLsbD 66 = r ∧ (stepWord r s g a b).getLsbD 65 = s ∧
    (stepWord r s g a b).getLsbD 64 = g ∧ (stepWord r s g a b).extractLsb' 32 32 = a ∧
    (stepWord r s g a b).extractLsb' 0 32 = b) ∧
  ∀ w : StepWord, w = stepWord (w.getLsbD 66) (w.getLsbD 65) (w.getLsbD 64) (w.extractLsb' 32 32) (w.extractLsb' 0 32)

/-- R70: the decoder's four cases. -/
def Obligations.DecoderPriority : Prop :=
  ∀ w : StepWord,
    (w.getLsbD 66 = true → decode (.step w) = .ok .reset) ∧
    (w.getLsbD 66 = false → w.getLsbD 65 = false → decode (.step w) = .ok .nop) ∧
    (w.getLsbD 66 = false → w.getLsbD 65 = true → w.getLsbD 64 = false →
      decode (.step w) = .ok (.divreqU (w.extractLsb' 32 32) (w.extractLsb' 0 32))) ∧
    (w.getLsbD 66 = false → w.getLsbD 65 = true → w.getLsbD 64 = true →
      decode (.step w) = .ok (.divreqS (w.extractLsb' 32 32) (w.extractLsb' 0 32)))

/-- R67: every step word matches exactly one of the four mask and match rows, and it is the decoded instruction's. -/
def Obligations.StepWordMatchesExactlyOneRow : Prop :=
  ∀ w : StepWord, ∃ i, decode (.step w) = .ok i ∧
    (stepRows.filter (fun row => row.covers w)).map (fun row => row.mnemonic) = [i.mnemonic]

/-- R73 (general knowledge in the spec; log 7): an RV32 word decodes exactly if one of the four rows covers it, and then to
that row's instruction with the word's own rd, rs1 and rs2. -/
def Obligations.RvWordDecodesByRow : Prop :=
  ∀ w : RvWord,
    ((rvRows.filter (fun row => row.covers w) = [] ∧ decode (.rv32 w) = .error (.notDivFamily w)) ∨
    ∃ i, decode (.rv32 w) = .ok i ∧ (rvRows.filter (fun row => row.covers w)).map (fun row => row.mnemonic) = [i.mnemonic] ∧
      i ∈ [Instr.div (w.extractLsb' 7 5) (w.extractLsb' 15 5) (w.extractLsb' 20 5),
           Instr.divu (w.extractLsb' 7 5) (w.extractLsb' 15 5) (w.extractLsb' 20 5),
           Instr.rem (w.extractLsb' 7 5) (w.extractLsb' 15 5) (w.extractLsb' 20 5),
           Instr.remu (w.extractLsb' 7 5) (w.extractLsb' 15 5) (w.extractLsb' 20 5)])

/-- R65, R67, R70, R73: no operand bit of any instruction is lost. -/
def Obligations.DecodeEncodeRoundTrip : Prop :=
  ∀ i : Instr, i.wf = true → decode (encode i) = .ok i

/-- R65, R67, R73: a word of a row without don't-care bits is the encoding of what it decodes to, and the word of RESET and
NOP differs from its encoding in don't-care bits only. That the encoding of RESET and NOP has 0 in those bits is the model's
choice (log 14, DESIGN CHOICE), and the two clauses about them rest on it. -/
def Obligations.DecodedWordReencodes : Prop :=
  (∀ (w : HostWord) (i : Instr), decode w = .ok i → i ≠ .reset → i ≠ .nop → encode i = w) ∧
  (∀ w : StepWord, decode (.step w) = .ok .reset → encode .reset = .step (w &&& 0x40000000000000000#67)) ∧
  (∀ w : StepWord, decode (.step w) = .ok .nop → encode .nop = .step (w &&& 0x60000000000000000#67))

/-- R68, R73: the decoder accepts exactly the well-formed words, every step word among them. -/
def Obligations.DecoderAcceptsExactlyWellFormedWords : Prop :=
  (∀ w : HostWord, (∃ i, decode w = .ok i) ↔ w.wf = true) ∧ ∀ w : StepWord, HostWord.wf (.step w) = true

/-- 95_test_vectors.md sections 2.1 to 2.6 (V-U1, V-S1, V-K10, P1 step 2) and R73: words written out from the encodings. -/
def Obligations.WrittenOutWordsDecode : Prop :=
  decode (.step 0x20000000A00000003#67) = .ok (.divreqU 10#32 3#32) ∧
  decode (.step 0x3FFFFFFF900000002#67) = .ok (.divreqS 0xFFFFFFF9#32 2#32) ∧
  decode (.step 0x60000000100000001#67) = .ok .reset ∧
  decode (.step 0x00000000000000000#67) = .ok .nop ∧
  decode (.rv32 0x0220C1B3#32) = .ok (.div 3#5 1#5 2#5) ∧
  decode (.rv32 0x027352B3#32) = .ok (.divu 5#5 6#5 7#5) ∧
  decode (.rv32 0x03FF6FB3#32) = .ok (.rem 31#5 30#5 31#5) ∧
  decode (.rv32 0x02957433#32) = .ok (.remu 8#5 10#5 9#5)

/-! ### The step -/

/-- The model's step (R85, R164): the oldest presented word, decoded, runs as its instruction, and the list moves on by that
word. The position of a word in the list stands for its edge (log 6). -/
def Obligations.StepRunsDecodedInstruction : Prop :=
  ∀ (s : State) (w : HostWord) (rest : List HostWord) (i : Instr),
    s.pending = w :: rest → decode w = .ok i → step s = exec i { s with pending := rest }

/-- Log 5 (the model's choice; R74, R164 leave the word to the host): with nothing listed, the step samples a step word that
nothing constrains. -/
def Obligations.StepSamplesFreeWordWhenNothingListed : Prop :=
  ∀ s : State, s.pending = [] → step s = exec (decodeStep (Config.hostStepWord s.draws)) s

/-- Log 12 (the model's choice; R5 leaves instruction decode outside): the one way a step stops. -/
def Obligations.StepRefusesOtherUnitsWords : Prop :=
  ∀ (s : State) (w : RvWord) (rest : List HostWord),
    s.pending = .rv32 w :: rest → HostWord.wf (.rv32 w) = false → step s = .refused (.notDivFamily w)

/-- R155, R68: under every word the host may present, in every state, the step answers a next state. -/
def Obligations.StepAnswersNextOnEveryLegalWord : Prop :=
  ∀ s : State, (∀ w ∈ s.pending.head?, w.wf = true) → ∃ t, step s = .next t

/-- R89: at an edge that does not accept, mode and operand bits have no effect on any register or output. -/
def Obligations.OperandsIgnoredUnlessAccepted : Prop :=
  ∀ (s : State) (w w' : StepWord) (rest : List HostWord),
    w.getLsbD 66 = w'.getLsbD 66 → w.getLsbD 65 = w'.getLsbD 65 →
    (w.getLsbD 66 = true ∨ w.getLsbD 65 = false ∨ s.engine.busy = true) →
    (State.acceptedOutput { s with pending := .step w :: rest } = false ∧
     State.acceptedOutput { s with pending := .step w' :: rest } = false) ∧
    ∃ t, step { s with pending := .step w :: rest } = .next t ∧ step { s with pending := .step w' :: rest } = .next t

/-- R88: a request that meets a busy engine changes nothing that NOP does not, and is not accepted. It covers the completing
step and the requests of the RV32M rows; that such an instruction is lost and leaves the pipeline as NOP does is the model's
inference (log 10, DEDUCED). -/
def Obligations.RequestWhileBusyIsIgnored : Prop :=
  ∀ (i : Instr) (s : State), i ≠ .reset → s.engine.busy = true →
    accepts (portsOf i s) s.engine = false ∧ ∃ t, exec .nop s = .next t ∧ exec i s = .next t

/-- R34: the output `accepted`, for a step word and for an RV32M word (whose request has start = 1 and reset = 0). -/
def Obligations.AcceptedOutputValue : Prop :=
  (∀ (s : State) (w : StepWord) (rest : List HostWord), s.pending = .step w :: rest →
    s.acceptedOutput = (w.getLsbD 65 && !s.engine.busy && !w.getLsbD 66)) ∧
  ∀ (s : State) (w : RvWord) (rest : List HostWord), s.pending = .rv32 w :: rest →
    HostWord.wf (.rv32 w) = true → s.acceptedOutput = !s.engine.busy

/-! ### Single instructions: results and frames -/

/-- R180: what a reset step writes. The eight datapath registers take the draw of the edge, about which nothing is known. The
clauses on the pipeline are the model's (log 11), not R180's: that its registers and its result register are unchanged
(DESIGN CHOICE) and that an awaited result is dropped (DEDUCED). The list of words is the model's own field (log 6). -/
def Obligations.ResetStepWrites : Prop :=
  ∀ s : State, ∃ t, exec .reset s = .next t ∧
    t.engine.busy = false ∧ t.engine.done = false ∧ t.engine.cycle = 0#4 ∧
    t.engine.signedReg = Config.resetSignedReg s.draws ∧ t.engine.dvdMag = Config.resetDvdMag s.draws ∧
    t.engine.dvsMag = Config.resetDvsMag s.draws ∧ t.engine.rem = Config.resetRem s.draws ∧
    t.engine.quo = Config.resetQuo s.draws ∧ t.engine.signQ = Config.resetSignQ s.draws ∧
    t.engine.signR = Config.resetSignR s.draws ∧ t.engine.dbz = Config.resetDbz s.draws ∧
    t.upstream.inFlight = none ∧ (∀ r, t.upstream.readX r = s.upstream.readX r) ∧
    t.upstream.captured = s.upstream.captured ∧ t.pending = s.pending

/-- R137: the idle step, its whole effect and frame, what it does to the phase and to the outputs. -/
def Obligations.IdleStepOnlyClearsDone : Prop :=
  ∀ s : State, s.engine.busy = false → ∃ t, exec .nop s = .next t ∧
    t = { s with engine := { s.engine with done := false }, draws := s.draws + 1 } ∧
    t.engine.phase = .idle ∧ (s.engine.phase = .idle → t.engine = s.engine) ∧
    t.outputs.quotient = s.outputs.quotient ∧ t.outputs.remainder = s.outputs.remainder ∧
    t.outputs.divideByZero = s.outputs.divideByZero

/-- R114, R111: the iteration step under any instruction but RESET; the next state written out is its frame.
That an RV32M instruction presented here leaves the pipeline's side unchanged, its destination not remembered, is the model's
inference (log 10, DEDUCED). -/
def Obligations.IterationStep : Prop :=
  ∀ (i : Instr) (s : State), i ≠ .reset → s.engine.busy = true → s.engine.cycle ≠ 15#4 →
    let e := s.engine
    let c := e.cycle.toNat
    let p1 := subStep e.dvdMag e.dvsMag e.rem e.quo (31 - 2 * c)
    let p2 := subStep e.dvdMag e.dvsMag p1.1 p1.2 (30 - 2 * c)
    exec i s = .next { s with
      engine := { e with rem := p2.1, quo := p2.2, cycle := BitVec.ofNat 4 (c + 1), done := false }
      draws := s.draws + 1 }

/-- R130, R132, R133: the completing step under any instruction but RESET, and its frame; without an awaited instruction the
pipeline's side is unchanged (with one, see AwaitedResultIsCaptured), under an RV32M instruction too by the model's inference
(log 10, DEDUCED). -/
def Obligations.CompletionStep : Prop :=
  ∀ (i : Instr) (s : State), i ≠ .reset → s.engine.busy = true → s.engine.cycle = 15#4 →
    let e := s.engine
    let p1 := subStep e.dvdMag e.dvsMag e.rem e.quo 1
    let p2 := subStep e.dvdMag e.dvsMag p1.1 p1.2 0
    let qm := p2.2
    let rm := p2.1.extractLsb' 0 32
    ∃ t, exec i s = .next t ∧
      t.engine = { e with
        quo := if e.signQ = true ∧ qm ≠ 0#32 then -qm else qm
        rem := (if e.signR = true ∧ rm ≠ 0#32 then -rm else rm).setWidth 33
        busy := false, done := true, cycle := 0#4 } ∧
      t.pending = s.pending ∧ (s.upstream.inFlight = none → t.upstream = s.upstream)

/-- R95 with R90 to R92: the acceptance of a request with a non-zero divisor in either mode. -/
def Obligations.AcceptanceStartsRun : Prop :=
  ∀ (g : Bool) (a b : Word) (s : State), s.engine.busy = false → b ≠ 0#32 →
    ∃ t, exec (request g a b) s = .next t ∧
      t.engine = {
        signedReg := g
        dvdMag := if g && a.msb then -a else a
        dvsMag := if g && b.msb then -b else b
        signQ := g && (a.msb ^^ b.msb)
        signR := g && a.msb
        dbz := false, quo := 0#32, rem := 0#33, cycle := 0#4, busy := true, done := false } ∧
      t.engine.phase = .run 0#4 ∧
      t.outputs.quotient = Config.busyQuotient t.draws ∧ t.outputs.remainder = Config.busyRemainder t.draws ∧
      t.pending = s.pending ∧ ∀ r, t.upstream.readX r = s.upstream.readX r

/-- R96, R97: the divide-by-zero short-circuit, the same in both modes and for every dividend. -/
def Obligations.ZeroDivisorShortCircuit : Prop :=
  ∀ (g : Bool) (a : Word) (s : State), s.engine.busy = false →
    ∃ t, exec (request g a 0#32) s = .next t ∧
      t.engine = {
        signedReg := g
        dvdMag := if g && a.msb then -a else a
        dvsMag := 0#32
        signQ := g && a.msb
        signR := g && a.msb
        dbz := true, quo := 0xFFFFFFFF#32, rem := a.setWidth 33, cycle := 0#4, busy := false, done := true } ∧
      t.engine.phase = .done ∧
      t.outputs.quotient = 0xFFFFFFFF#32 ∧ t.outputs.remainder = a ∧ t.outputs.divideByZero = true ∧
      t.pending = s.pending ∧ ∀ r, t.upstream.readX r = s.upstream.readX r

/-- R72 (REM, DIVU and REMU by general knowledge in the spec; log 7, 8): on an idle engine each RV32M instruction starts the run
of the request the table names on the contents of rs1 and rs2, and the result it consumes is awaited for rd. -/
def Obligations.DivFamilyIssuesRequest : Prop :=
  ∀ (rd rs1 rs2 : RegNo) (s : State), s.engine.busy = false → s.upstream.readX rs2 ≠ 0#32 →
    let a := s.upstream.readX rs1
    let b := s.upstream.readX rs2
    let started : Bool → ResultSel → State := fun g sel =>
      { s with
        engine := {
          signedReg := g
          dvdMag := if g && a.msb then -a else a
          dvsMag := if g && b.msb then -b else b
          signQ := g && (a.msb ^^ b.msb)
          signR := g && a.msb
          dbz := false, quo := 0#32, rem := 0#33, cycle := 0#4, busy := true, done := false }
        upstream := { s.upstream with inFlight := some ⟨rd, sel⟩ }
        draws := s.draws + 1 }
    exec (.div rd rs1 rs2) s = .next (started true .quotient) ∧
    exec (.rem rd rs1 rs2) s = .next (started true .remainder) ∧
    exec (.divu rd rs1 rs2) s = .next (started false .quotient) ∧
    exec (.remu rd rs1 rs2) s = .next (started false .remainder)

/-- R72, R96, R97 (log 7, 8, 9): with rs2 = 0 the result is in rd in the very next snapshot: all ones for DIV and DIVU, the
dividend for REM and REMU; x0 stays 0 and every other register is unchanged. The result register holds the result together with
`divideByZero` (R143; log 20). -/
def Obligations.DivFamilyByZero : Prop :=
  ∀ (rd rs1 rs2 : RegNo) (s : State), s.engine.busy = false → s.upstream.readX rs2 = 0#32 →
    let written : State → Word → Prop := fun t v =>
      t.engine.done = true ∧ t.engine.busy = false ∧ t.engine.dbz = true ∧
      t.upstream.readX rd = (if rd = 0#5 then 0#32 else v) ∧
      (∀ r, r ≠ rd → t.upstream.readX r = s.upstream.readX r) ∧ t.upstream.inFlight = none ∧
      t.upstream.captured = ⟨v, true⟩ ∧ t.pending = s.pending
    (∃ t, exec (.div rd rs1 rs2) s = .next t ∧ written t 0xFFFFFFFF#32) ∧
    (∃ t, exec (.divu rd rs1 rs2) s = .next t ∧ written t 0xFFFFFFFF#32) ∧
    (∃ t, exec (.rem rd rs1 rs2) s = .next t ∧ written t (s.upstream.readX rs1)) ∧
    (∃ t, exec (.remu rd rs1 rs2) s = .next t ∧ written t (s.upstream.readX rs1))

/-- R72, R143: the step that completes a run writes the awaited result to its register, captures it together with
`divideByZero`, and awaits nothing more. The model's part: the register file and x0 (log 8, PRESUMED), the instant of the write
(log 9, DESIGN CHOICE), that an RV32M instruction presented at this edge is lost (log 10, DEDUCED), and the result register's
form (log 20, DESIGN CHOICE). -/
def Obligations.AwaitedResultIsCaptured : Prop :=
  ∀ (i : Instr) (s : State) (wb : Writeback), i ≠ .reset → s.engine.busy = true → s.engine.cycle = 15#4 →
    s.upstream.inFlight = some wb →
    ∃ t, exec i s = .next t ∧ t.engine.done = true ∧
      t.upstream.readX wb.rd =
        (if wb.rd = 0#5 then 0#32
         else match wb.sel with
           | .quotient => t.outputs.quotient
           | .remainder => t.outputs.remainder) ∧
      (∀ r, r ≠ wb.rd → t.upstream.readX r = s.upstream.readX r) ∧ t.upstream.inFlight = none ∧
      t.upstream.captured =
        ⟨match wb.sel with
           | .quotient => t.outputs.quotient
           | .remainder => t.outputs.remainder, t.outputs.divideByZero⟩

/-! ### The arithmetic of one step -/

/-- R13: 32-bit negation. -/
def Obligations.NegationWraps : Prop :=
  (∀ v : Word, (neg32 v).toNat = (2 ^ 32 - v.toNat) % 2 ^ 32 ∧ neg32 v = -v) ∧
  neg32 0#32 = 0#32 ∧ neg32 0x80000000#32 = 0x80000000#32

/-- R91: the magnitudes as integers, their ranges, and when one is zero. -/
def Obligations.MagnitudeIsAbsoluteValue : Prop :=
  ∀ v : Word, ((magnitude true v).toNat : Int) = |v.toInt| ∧ (magnitude true v).toNat ≤ 2 ^ 31 ∧
    magnitude false v = v ∧ ∀ g, magnitude g v = 0#32 ↔ v = 0#32

/-- R112: the restoring sub-step on integers: the shifted value, the exact comparison, the kept difference or the restored
value, and the one quotient bit it may set. -/
def Obligations.RestoringSubStep : Prop :=
  ∀ (dvd dvs : Word) (r : Rem33) (q : Word) (i : Nat), i < 32 →
    let sh := 2 * (r.toNat % 2 ^ 32) + (dvd.getLsbD i).toNat
    let out := subStep dvd dvs r q i
    (dvs.toNat ≤ sh → out.1.toNat = sh - dvs.toNat ∧
      ∀ j, j < 32 → out.2.getLsbD j = (q.getLsbD j || decide (j = i))) ∧
    (sh < dvs.toNat → out.1.toNat = sh ∧ out.2 = q)

/-- R117: the remainder bound: a sub-step that starts below the divisor ends below it, its guard bit 0. -/
def Obligations.SubStepKeepsRemainderBound : Prop :=
  ∀ (dvd dvs : Word) (r : Rem33) (q : Word) (i : Nat), r.toNat < dvs.toNat →
    (subStep dvd dvs r q i).1.toNat < dvs.toNat ∧ (subStep dvd dvs r q i).1.getLsbD 32 = false ∧
    2 * r.toNat + (dvd.getLsbD i).toNat < 2 ^ 33

/-- R113: under the remainder bound, testing the sign bit of the 33-bit difference, or of the 34-bit one, is the same as
the exact comparison. -/
def Obligations.SignBitComparisonIsExact : Prop :=
  ∀ (dvd dvs : Word) (r : Rem33) (q : Word) (i : Nat), r.toNat < dvs.toNat →
    let sh : Rem33 := BitVec.ofNat 33 (2 * r.toNat + (dvd.getLsbD i).toNat)
    let diff33 : BitVec 33 := sh - dvs.setWidth 33
    let diff34 : BitVec 34 := sh.setWidth 34 - dvs.setWidth 34
    subStep dvd dvs r q i = (if diff33.msb = false then (diff33, q ||| BitVec.twoPow 32 i) else (sh, q)) ∧
    diff34.msb = diff33.msb

/-- R119: a run's iteration steps set quotient bits and never clear one, and bit i only at the step that consumes it. -/
def Obligations.QuotientBitsOnlySet : Prop :=
  ∀ (i : Instr) (s t : State), i ≠ .reset → s.engine.busy = true → s.engine.cycle ≠ 15#4 → exec i s = .next t →
    ∀ j, j < 32 →
      (s.engine.quo.getLsbD j = true → t.engine.quo.getLsbD j = true) ∧
      (j ≠ 31 - 2 * s.engine.cycle.toNat → j ≠ 30 - 2 * s.engine.cycle.toNat →
        t.engine.quo.getLsbD j = s.engine.quo.getLsbD j)

/-! ### Registers over all instructions -/

/-- R22: `done` is 1 after a step exactly if the step completed a request; two completions in a row give two pulses (the
spec's decision D5; log 13). -/
def Obligations.DoneIffStepCompletes : Prop :=
  (∀ (i : Instr) (s t : State), exec i s = .next t →
    (t.engine.done = true ↔ i ≠ .reset ∧
      ((s.engine.busy = true ∧ s.engine.cycle = 15#4) ∨
       (s.engine.busy = false ∧ (portsOf i s).start = true ∧ (portsOf i s).divisor = 0#32)))) ∧
  ∀ (g : Bool) (a : Word) (s : State), s.engine.busy = false → s.engine.done = true →
    ∃ t, exec (request g a 0#32) s = .next t ∧ t.engine.done = true

/-- R21: what sets and what clears `busy`. -/
def Obligations.BusyTransitions : Prop :=
  ∀ (i : Instr) (s t : State), exec i s = .next t →
    (t.engine.busy = true ↔ i ≠ .reset ∧
      ((s.engine.busy = true ∧ s.engine.cycle ≠ 15#4) ∨
       (s.engine.busy = false ∧ (portsOf i s).start = true ∧ (portsOf i s).divisor ≠ 0#32)))

/-- R23: the iteration counter: 0 on acceptance and completion, one more per iteration step, else unchanged. -/
def Obligations.CycleCounter : Prop :=
  ∀ (i : Instr) (s t : State), i ≠ .reset → exec i s = .next t →
    (accepts (portsOf i s) s.engine = true → t.engine.cycle = 0#4) ∧
    (s.engine.busy = true → t.engine.cycle.toNat = (s.engine.cycle.toNat + 1) % 16) ∧
    (s.engine.busy = false → accepts (portsOf i s) s.engine = false → t.engine.cycle = s.engine.cycle)

/-- R31: `dbz` is written by every accepted request, kept by every other step but reset, and it is the output
`divideByZero`. -/
def Obligations.DivideByZeroFlag : Prop :=
  ∀ (i : Instr) (s t : State), i ≠ .reset → exec i s = .next t →
    (accepts (portsOf i s) s.engine = true → (t.engine.dbz = true ↔ (portsOf i s).divisor = 0#32)) ∧
    (accepts (portsOf i s) s.engine = false → t.engine.dbz = s.engine.dbz) ∧
    t.outputs.divideByZero = t.engine.dbz

/-- R24 to R26, R29, R30: the mode, the magnitudes and the sign latches change only at acceptance and reset. -/
def Obligations.RequestLatchFrame : Prop :=
  ∀ (i : Instr) (s t : State), i ≠ .reset → exec i s = .next t → accepts (portsOf i s) s.engine = false →
    t.engine.signedReg = s.engine.signedReg ∧ t.engine.dvdMag = s.engine.dvdMag ∧ t.engine.dvsMag = s.engine.dvsMag ∧
    t.engine.signQ = s.engine.signQ ∧ t.engine.signR = s.engine.signR

/-- R28, R27, R138: outside a run the accumulator changes only at acceptance and reset. -/
def Obligations.AccumulatorFrame : Prop :=
  ∀ (i : Instr) (s t : State), i ≠ .reset → exec i s = .next t → s.engine.busy = false →
    accepts (portsOf i s) s.engine = false → t.engine.quo = s.engine.quo ∧ t.engine.rem = s.engine.rem

/-- The pipeline's registers (log 8 to 11): one changes only in the snapshot with `done = 1`, and only the destination of the
instruction that was awaited or is issued at this edge. -/
def Obligations.PipelineRegisterFrame : Prop :=
  ∀ (i : Instr) (s t : State) (r : RegNo), exec i s = .next t → t.upstream.readX r ≠ s.upstream.readX r →
    t.engine.done = true ∧ ∃ wb : Writeback, wb.rd = r ∧
      (if accepts (portsOf i s) s.engine = true then destOf i else s.upstream.inFlight) = some wb

/-- R143 (log 8 to 11, 20; the model's reading of the result register): it changes only in a snapshot with `done = 1` that ends
an instruction of the DIV family, issued at this edge or awaited, and takes the result that instruction consumes together with
`divideByZero`. -/
def Obligations.ResultRegisterCaptures : Prop :=
  ∀ (i : Instr) (s t : State), exec i s = .next t →
    t.upstream.captured =
      match (if t.engine.done = false then none
             else if accepts (portsOf i s) s.engine = true then destOf i
             else s.upstream.inFlight) with
      | none => s.upstream.captured
      | some wb =>
        ⟨match wb.sel with
           | .quotient => t.outputs.quotient
           | .remainder => t.outputs.remainder, t.outputs.divideByZero⟩

/-- The model's own fields: no instruction touches the words still to be presented, each takes one edge (log 3, 6), and the awaited
instruction is replaced by an accepted request, dropped by reset and by a completion, else kept (log 8 to 11). -/
def Obligations.HostSideFrame : Prop :=
  ∀ (i : Instr) (s t : State), exec i s = .next t → t.pending = s.pending ∧ t.draws = s.draws + 1 ∧
    t.upstream.inFlight =
      (if i = .reset ∨ t.engine.done = true then none
       else if accepts (portsOf i s) s.engine = true then destOf i
       else s.upstream.inFlight)

/-- Log 8 (PRESUMED, the family's): x0 reads as zero in every state. -/
def Obligations.RegisterZeroReadsZero : Prop :=
  ∀ (u : Upstream) (v : Word), u.readX 0#5 = 0#32 ∧ u.writeX 0#5 v = u

/-! ### Outputs -/

/-- R33, R35: the registered outputs; `quotient` and `remainder` carry the registers when `busy = 0` and fresh draws when
`busy = 1`. -/
def Obligations.OutputValues : Prop :=
  ∀ s : State, s.outputs.busy = s.engine.busy ∧ s.outputs.done = s.engine.done ∧
    s.outputs.divideByZero = s.engine.dbz ∧
    (s.engine.busy = false → s.outputs.quotient = s.engine.quo ∧ s.outputs.remainder = s.engine.rem.extractLsb' 0 32) ∧
    (s.engine.busy = true → s.outputs.quotient = Config.busyQuotient s.draws ∧
      s.outputs.remainder = Config.busyRemainder s.draws)

/-- R138, R56 item 3: from a snapshot with `busy = 0`, any number of edges without a request leaves the three result outputs
as they are, and `done` is 0 after the first. -/
def Obligations.ResultsStayStableWhileIdle : Prop :=
  ∀ (ws rest : List HostWord) (s : State), (∀ w ∈ ws, w.isNop = true) → s.engine.busy = false →
    ∃ t, RunsTo ws.length { s with pending := ws ++ rest } t ∧ t.engine.busy = false ∧
      t.outputs.quotient = s.outputs.quotient ∧ t.outputs.remainder = s.outputs.remainder ∧
      t.outputs.divideByZero = s.outputs.divideByZero ∧ (ws ≠ [] → t.engine.done = false) ∧
      t.upstream = s.upstream ∧ t.pending = rest

/-! ### Phases and reset -/

/-- R131: the transition table of the sign-correction FSM, over the four defined phases (R41). A
state with `busy = 0`, `done = 1` and `cycle ≠ 0`, which no row of R41 covers, counts as DONE here (log 21, DESIGN CHOICE). -/
def Obligations.PhaseTransitionTable : Prop :=
  ∀ (i : Instr) (s t : State), exec i s = .next t →
    (i = .reset → t.engine.phase = .idle) ∧
    (i ≠ .reset →
      (s.engine.phase = .idle ∨ s.engine.phase = .done →
        ((portsOf i s).start = true → (portsOf i s).divisor ≠ 0#32 → t.engine.phase = .run 0#4) ∧
        ((portsOf i s).start = true → (portsOf i s).divisor = 0#32 → t.engine.phase = .done) ∧
        ((portsOf i s).start = false → t.engine.phase = .idle)) ∧
      ∀ c : BitVec 4, s.engine.phase = .run c →
        (c ≠ 15#4 → t.engine.phase = .run (c + 1#4)) ∧ (c = 15#4 → t.engine.phase = .done))

/-- R36: after any instruction, in any state, `busy` and `done` are not both 1. -/
def Obligations.BusyAndDoneExclusive : Prop :=
  ∀ (i : Instr) (s t : State), exec i s = .next t → ¬(t.engine.busy = true ∧ t.engine.done = true)

/-- R37, R183: the state after reset is IDLE with the counter 0, and the host may present a request at once. -/
def Obligations.StateAfterReset : Prop :=
  State.reset.engine.busy = false ∧ State.reset.engine.done = false ∧ State.reset.engine.cycle = 0#4 ∧
  State.reset.engine.phase = .idle ∧
  ∀ (g : Bool) (a b : Word),
    State.acceptedOutput { State.reset with pending := [requestWord g a b] } = true

/-- R182, R183, R159 item 1: from any power-on state, one edge with `reset = 1`, whatever else the word says, leads to IDLE; its
request is not accepted. -/
def Obligations.ResetFromPowerOn : Prop :=
  ∀ (e : Engine) (w : StepWord) (rest : List HostWord), w.getLsbD 66 = true →
    State.acceptedOutput { State.powerOn e with pending := .step w :: rest } = false ∧
    ∃ t, step { State.powerOn e with pending := .step w :: rest } = .next t ∧
      t.engine.phase = .idle ∧ t.engine.cycle = 0#4 ∧ t.pending = rest

/-- R181: a reset edge during a run abandons it: neither that edge nor any later one without a request pulses `done`. That an
awaited instruction's result never reaches its register, and that the pipeline's registers and its result register stay as they
are, is log 11. -/
def Obligations.ResetAbandonsRun : Prop :=
  ∀ (ws rest : List HostWord) (s : State), (∀ w ∈ ws, w.isNop = true) →
    ∃ t, RunsTo (ws.length + 1) { s with pending := encode .reset :: ws ++ rest } t ∧
      t.engine.busy = false ∧ t.engine.done = false ∧ (∀ r, t.upstream.readX r = s.upstream.readX r) ∧
      t.upstream.inFlight = none ∧ t.upstream.captured = s.upstream.captured

/-! ### The invariant -/

/-- The invariant holds right after reset. -/
def Obligations.InvariantAtReset : Prop := State.reset.Inv

/-- R36, R40, R41, R117, R118, R31, R92: every step, under every word, keeps the invariant: the partial remainder and quotient of a
run are those of the dividend bits consumed so far. That a result is awaited only during a run is the model's (log 8, 10, 11). -/
def Obligations.StepKeepsInvariant : Prop :=
  ∀ s t : State, s.Inv → step s = .next t → t.Inv

/-- R40 item 2: while a run is on, the partial remainder is below the divisor magnitude and its guard bit is 0. -/
def Obligations.RemainderBoundInRun : Prop :=
  ∀ s : State, s.Inv → s.engine.busy = true →
    s.engine.rem.toNat < s.engine.dvsMag.toNat ∧ s.engine.rem.getLsbD 32 = false

/-! ### Whole requests: `ws` is what the host presents at the 16 edges after the accepting one: anything but reset -/

/-- R189, R184: the shape of `busy` and `done` for every non-zero-divisor request: `busy` in 16 snapshots, nothing accepted
meanwhile, then `done` with `busy` cleared, and the next request is accepted at the edge after that. -/
def Obligations.BusyShape : Prop :=
  ∀ (g : Bool) (a b : Word) (ws : List HostWord) (s : State), s.engine.busy = false → b ≠ 0#32 →
    ws.length = 16 → (∀ w ∈ ws, w.keepsRun = true) → ∀ (g' : Bool) (a' b' : Word) (rest : List HostWord),
    let s₀ : State := { s with pending := requestWord g a b :: ws ++ requestWord g' a' b' :: rest }
    s₀.acceptedOutput = true ∧
    (∀ k, k < 16 → ∃ t, RunsTo (k + 1) s₀ t ∧ t.engine.busy = true ∧ t.engine.done = false ∧
      t.engine.cycle.toNat = k ∧ t.acceptedOutput = false) ∧
    ∃ t, RunsTo 17 s₀ t ∧ t.engine.busy = false ∧ t.engine.done = true ∧ t.acceptedOutput = true

/-- R139, R189: unsigned division of any two operands, from any state with `busy = 0`. -/
def Obligations.UnsignedDivisionResult : Prop :=
  ∀ (a b : Word) (ws rest : List HostWord) (s : State), s.engine.busy = false → b ≠ 0#32 →
    ws.length = 16 → (∀ w ∈ ws, w.keepsRun = true) →
    ∃ t, RunsTo 17 { s with pending := requestWord false a b :: ws ++ rest } t ∧
      t.outputs.done = true ∧ t.outputs.divideByZero = false ∧
      t.outputs.quotient.toNat = a.toNat / b.toNat ∧ t.outputs.remainder.toNat = a.toNat % b.toNat ∧
      t.outputs.quotient.toNat * b.toNat + t.outputs.remainder.toNat = a.toNat ∧
      t.outputs.remainder.toNat < b.toNat ∧ t.pending = rest

/-- R140, R189: signed division of any two operands, truncating toward zero, each result modulo 2^32; the remainder is zero or
has the dividend's sign and is smaller than the divisor in absolute value. -/
def Obligations.SignedDivisionResult : Prop :=
  ∀ (a b : Word) (ws rest : List HostWord) (s : State), s.engine.busy = false → b ≠ 0#32 →
    ws.length = 16 → (∀ w ∈ ws, w.keepsRun = true) →
    ∃ t, RunsTo 17 { s with pending := requestWord true a b :: ws ++ rest } t ∧
      t.outputs.done = true ∧ t.outputs.divideByZero = false ∧
      t.outputs.quotient = BitVec.ofInt 32 (Int.tdiv a.toInt b.toInt) ∧
      t.outputs.remainder.toInt = a.toInt - Int.tdiv a.toInt b.toInt * b.toInt ∧
      |t.outputs.remainder.toInt| < |b.toInt| ∧
      (t.outputs.remainder.toInt ≠ 0 → Int.sign t.outputs.remainder.toInt = Int.sign a.toInt) ∧ t.pending = rest

/-- R141: INT_MIN / -1 gives INT_MIN and 0 with no flag, after the normal 16-step run. -/
def Obligations.SignedOverflowResult : Prop :=
  ∀ (ws rest : List HostWord) (s : State), s.engine.busy = false →
    ws.length = 16 → (∀ w ∈ ws, w.keepsRun = true) →
    ∃ t, RunsTo 17 { s with pending := requestWord true 0x80000000#32 0xFFFFFFFF#32 :: ws ++ rest } t ∧
      t.outputs.done = true ∧ t.outputs.quotient = 0x80000000#32 ∧ t.outputs.remainder = 0#32 ∧
      t.outputs.divideByZero = false

/-- R98, R189: a divide-by-zero request is done in the snapshot of its accepting edge; `busy` is 0 before, at and after it; with
no request at the next edge the engine is IDLE. -/
def Obligations.ZeroDivisorTiming : Prop :=
  ∀ (g : Bool) (a : Word) (w : HostWord) (rest : List HostWord) (s : State), s.engine.busy = false → w.isNop = true →
    ∃ t t', RunsTo 1 { s with pending := requestWord g a 0#32 :: w :: rest } t ∧ t.engine.phase = .done ∧
      RunsTo 2 { s with pending := requestWord g a 0#32 :: w :: rest } t' ∧ t'.engine.phase = .idle

/-- R190 (on the spec's decision D5; log 13): divide-by-zero requests presented back to back are accepted at every edge, each with
its own `done` and its own dividend as the remainder. -/
def Obligations.ZeroDivisorThroughput : Prop :=
  ∀ (reqs : List (Bool × Word)) (last : Bool × Word) (rest : List HostWord) (s : State), s.engine.busy = false →
    ∃ t, RunsTo (reqs.length + 1)
        { s with pending := (reqs ++ [last]).map (fun p => requestWord p.1 p.2 0#32) ++ rest } t ∧
      t.outputs.busy = false ∧ t.outputs.done = true ∧ t.outputs.divideByZero = true ∧
      t.outputs.quotient = 0xFFFFFFFF#32 ∧ t.outputs.remainder = last.2 ∧ t.pending = rest

/-- R72, R139, R140, R141, R143 (log 7, 8, 9, 20): an RV32M instruction issued on an idle engine has its result in rd at its `done`
snapshot, 17 edges later if the divisor is not zero, whatever else but reset is presented meanwhile (that RV32M
instructions among these words are lost is log 10, DEDUCED); x0 stays 0 and every other register is unchanged, and the result
register holds the result together with `divideByZero`. -/
def Obligations.DivFamilyResultInRegister : Prop :=
  ∀ (rd rs1 rs2 : RegNo) (ws rest : List HostWord) (s : State), s.engine.busy = false → s.upstream.readX rs2 ≠ 0#32 →
    ws.length = 16 → (∀ w ∈ ws, w.keepsRun = true) →
    let a := s.upstream.readX rs1
    let b := s.upstream.readX rs2
    let leaves : Instr → Word → Prop := fun i v =>
      ∃ t, RunsTo 17 { s with pending := encode i :: ws ++ rest } t ∧ t.engine.done = true ∧
        t.upstream.readX rd = (if rd = 0#5 then 0#32 else v) ∧
        (∀ r, r ≠ rd → t.upstream.readX r = s.upstream.readX r) ∧ t.upstream.captured = ⟨v, false⟩ ∧ t.pending = rest
    leaves (.div rd rs1 rs2) (BitVec.ofInt 32 (Int.tdiv a.toInt b.toInt)) ∧
    leaves (.divu rd rs1 rs2) (BitVec.ofNat 32 (a.toNat / b.toNat)) ∧
    leaves (.rem rd rs1 rs2) (BitVec.ofInt 32 (Int.tmod a.toInt b.toInt)) ∧
    leaves (.remu rd rs1 rs2) (BitVec.ofNat 32 (a.toNat % b.toNat))

/-! ### Assembler notation -/

/-- R71: the expansions, the literals' bits, and the rejection of a literal out of range and of `NOP 0`. -/
def Obligations.AssemblerExpansions : Prop :=
  (∀ v : Int, -2 ^ 31 ≤ v → v < 2 ^ 32 → ((literalBits v).toNat : Int) = v % 2 ^ 32) ∧
  (∀ a b : Int, (a < -2 ^ 31 ∨ 2 ^ 32 ≤ a ∨ b < -2 ^ 31 ∨ 2 ^ 32 ≤ b) →
    assembleLine (.divreqU a b) = none ∧ assembleLine (.divreqS a b) = none ∧
    assembleLine (.divuRun a b) = none ∧ assembleLine (.divRun a b) = none) ∧
  assembleLine (.nops 0) = none ∧
  (∀ n, 1 ≤ n → assembleLine (.nops n) = some (List.replicate n (encode .nop))) ∧
  ∀ a b : Int, -2 ^ 31 ≤ a → a < 2 ^ 32 → -2 ^ 31 ≤ b → b < 2 ^ 32 →
    assemble [.divuRun a b] = assemble [.divreqU a b, .nops 16] ∧
    assemble [.divRun a b] = assemble [.divreqS a b, .nops 16] ∧
    assembleLine (.divuRun a b) = some (requestWord false (literalBits a) (literalBits b) :: List.replicate 16 (encode .nop)) ∧
    assembleLine (.divRun a b) = some (requestWord true (literalBits a) (literalBits b) :: List.replicate 16 (encode .nop))

/-- R71's last paragraph: after `DIVU.RUN` or `DIV.RUN` started in IDLE or DONE, the last snapshot holds the results: with
`done = 1` if the divisor is not zero, in IDLE if it is. -/
def Obligations.AssembledRunLeavesResults : Prop :=
  ∀ (x y : Int) (ws rest : List HostWord) (s : State), s.engine.busy = false →
    let a := literalBits x
    let b := literalBits y
    (assemble [.divuRun x y] = some ws →
      ∃ t, RunsTo 17 { s with pending := ws ++ rest } t ∧ t.pending = rest ∧
        (y % 2 ^ 32 ≠ 0 → t.engine.phase = .done ∧
          (t.outputs.quotient.toNat : Int) = (x % 2 ^ 32) / (y % 2 ^ 32) ∧
          (t.outputs.remainder.toNat : Int) = (x % 2 ^ 32) % (y % 2 ^ 32)) ∧
        (y % 2 ^ 32 = 0 → t.engine.phase = .idle ∧ t.outputs.quotient = 0xFFFFFFFF#32 ∧
          (t.outputs.remainder.toNat : Int) = x % 2 ^ 32 ∧ t.outputs.divideByZero = true)) ∧
    (assemble [.divRun x y] = some ws →
      ∃ t, RunsTo 17 { s with pending := ws ++ rest } t ∧ t.pending = rest ∧
        (y % 2 ^ 32 ≠ 0 → t.engine.phase = .done ∧
          t.outputs.quotient = BitVec.ofInt 32 (Int.tdiv a.toInt b.toInt) ∧
          t.outputs.remainder = BitVec.ofInt 32 (Int.tmod a.toInt b.toInt)) ∧
        (y % 2 ^ 32 = 0 → t.engine.phase = .idle ∧ t.outputs.quotient = 0xFFFFFFFF#32 ∧
          t.outputs.remainder = a ∧ t.outputs.divideByZero = true))
end

