-- ==== Sys2Proof/Laws/Decode.lean ====
section
/-! SUPPORT. What the decoder can answer, said once, and the bits of the words the encoder builds. -/

namespace Sys2Proof

/-- The decoder of step words by the three control bits. -/
theorem decodeStep_cases (w : StepWord) :
    (w.getLsbD 66 = true ∧ decodeStep w = .reset) ∨
    (w.getLsbD 66 = false ∧ w.getLsbD 65 = false ∧ decodeStep w = .nop) ∨
    (w.getLsbD 66 = false ∧ w.getLsbD 65 = true ∧ w.getLsbD 64 = false ∧
      decodeStep w = .divreqU (stepDividend w) (stepDivisor w)) ∨
    (w.getLsbD 66 = false ∧ w.getLsbD 65 = true ∧ w.getLsbD 64 = true ∧
      decodeStep w = .divreqS (stepDividend w) (stepDivisor w)) := by
  unfold decodeStep
  cases w.getLsbD 66 <;> cases w.getLsbD 65 <;> cases w.getLsbD 64 <;> simp

@[simp] theorem decode_step (w : StepWord) : decode (.step w) = .ok (decodeStep w) := rfl

@[simp] theorem decode_rv32 (w : RvWord) : decode (.rv32 w) = decodeRv w := rfl

/-- The decoder of RV32 words by the four rows. -/
theorem decodeRv_cases (w : RvWord) :
    decodeRv w = .ok (.div (rvRd w) (rvRs1 w) (rvRs2 w)) ∨ decodeRv w = .ok (.divu (rvRd w) (rvRs1 w) (rvRs2 w)) ∨
    decodeRv w = .ok (.rem (rvRd w) (rvRs1 w) (rvRs2 w)) ∨ decodeRv w = .ok (.remu (rvRd w) (rvRs1 w) (rvRs2 w)) ∨
    decodeRv w = .error (.notDivFamily w) := by
  unfold decodeRv
  repeat' split
  all_goals simp

/-- No RV32 word stands for an operation of the engine itself. -/
theorem decodeRv_ne_reset (w : RvWord) : decodeRv w ≠ .ok .reset := by
  rcases decodeRv_cases w with h | h | h | h | h <;> simp [h]

/-- Every bit of a built step word. -/
theorem stepWord_getLsbD (r s g : Bool) (a b : Word) (j : Nat) :
    (stepWord r s g a b).getLsbD j =
      if j < 32 then b.getLsbD j
      else if j < 64 then a.getLsbD (j - 32)
      else if j = 64 then g
      else if j = 65 then s
      else if j = 66 then r
      else false := by
  simp only [stepWord, BitVec.getLsbD_append, BitVec.getLsbD_ofBool]
  by_cases h1 : j < 32
  · simp [h1]
  by_cases h2 : j < 64
  · simp [h1, h2, show j - 32 < 32 by omega]
  by_cases h3 : j = 64
  · subst h3; simp
  by_cases h4 : j = 65
  · subst h4; simp
  by_cases h5 : j = 66
  · subst h5; simp
  have h6 : j - 32 - 32 - 1 - 1 ≠ 0 := by omega
  have h7 : ¬ j - 32 < 32 := by omega
  have h8 : ¬ j - 32 - 32 < 1 := by omega
  have h9 : ¬ j - 32 - 32 - 1 < 1 := by omega
  simp [h1, h2, h3, h4, h5, h6, h7, h8, h9]

theorem keepsRun_iff (w : HostWord) : w.keepsRun = true ↔ ∃ i, decode w = .ok i ∧ i ≠ .reset := by
  unfold HostWord.keepsRun
  split <;> simp_all

theorem isNop_iff (w : HostWord) : w.isNop = true ↔ decode w = .ok .nop := by
  unfold HostWord.isNop
  split <;> simp_all

end Sys2Proof
end

