-- ==== Sys2Proof/Laws/State.lean ====
section
/-! SUPPORT. One lemma per field per update of State, Upstream and Engine, each true by rfl, so that no later proof unfolds
a record update. -/

namespace Sys2Proof.Machine

/-! ### State -/

@[simp] theorem clock_engine (p : Inputs) (dest : Option Writeback) (s : State) : (clock p dest s).engine = s.engine.edge s.draws p := rfl
@[simp] theorem clock_upstream (p : Inputs) (dest : Option Writeback) (s : State) : (clock p dest s).upstream = (s.upstream.track p (accepts p s.engine) dest).capture (s.engine.edge s.draws p) := rfl
@[simp] theorem clock_pending (p : Inputs) (dest : Option Writeback) (s : State) : (clock p dest s).pending = s.pending := rfl
@[simp] theorem clock_draws (p : Inputs) (dest : Option Writeback) (s : State) : (clock p dest s).draws = s.draws + 1 := rfl

@[simp] theorem consumed_engine (s : State) : s.consumed.engine = s.engine := rfl
@[simp] theorem consumed_upstream (s : State) : s.consumed.upstream = s.upstream := rfl
@[simp] theorem consumed_pending (s : State) : s.consumed.pending = s.pending.tail := rfl
@[simp] theorem consumed_draws (s : State) : s.consumed.draws = s.draws := rfl

@[simp] theorem withFetchWord_engine (s : State) (nbits w : Nat) : (s.withFetchWord nbits w).engine = s.engine := rfl
@[simp] theorem withFetchWord_upstream (s : State) (nbits w : Nat) : (s.withFetchWord nbits w).upstream = s.upstream := rfl
@[simp] theorem withFetchWord_pending (s : State) (nbits w : Nat) : (s.withFetchWord nbits w).pending = hostWordOf nbits w :: s.pending := rfl
@[simp] theorem withFetchWord_draws (s : State) (nbits w : Nat) : (s.withFetchWord nbits w).draws = s.draws := rfl

@[simp] theorem reset_engine : State.reset.engine = Engine.afterReset 0 := rfl
@[simp] theorem reset_upstream : State.reset.upstream = Upstream.initial := rfl
@[simp] theorem reset_pending : State.reset.pending = [] := rfl
@[simp] theorem reset_draws : State.reset.draws = 1 := rfl

@[simp] theorem powerOn_engine (e : Engine) : (State.powerOn e).engine = e := rfl
@[simp] theorem powerOn_upstream (e : Engine) : (State.powerOn e).upstream = Upstream.initial := rfl
@[simp] theorem powerOn_pending (e : Engine) : (State.powerOn e).pending = [] := rfl
@[simp] theorem powerOn_draws (e : Engine) : (State.powerOn e).draws = 0 := rfl

/-! ### Outputs -/

@[simp] theorem outputs_busy (s : State) : s.outputs.busy = s.engine.busy := rfl
@[simp] theorem outputs_done (s : State) : s.outputs.done = s.engine.done := rfl
@[simp] theorem outputs_divideByZero (s : State) : s.outputs.divideByZero = s.engine.dbz := rfl

/-! ### Input ports -/

@[simp] theorem resetting_reset : Inputs.resetting.reset = true := rfl
@[simp] theorem resetting_start : Inputs.resetting.start = false := rfl
@[simp] theorem resetting_signed : Inputs.resetting.signed = false := rfl
@[simp] theorem resetting_dividend : Inputs.resetting.dividend = 0#32 := rfl
@[simp] theorem resetting_divisor : Inputs.resetting.divisor = 0#32 := rfl

@[simp] theorem noRequest_reset : Inputs.noRequest.reset = false := rfl
@[simp] theorem noRequest_start : Inputs.noRequest.start = false := rfl
@[simp] theorem noRequest_signed : Inputs.noRequest.signed = false := rfl
@[simp] theorem noRequest_dividend : Inputs.noRequest.dividend = 0#32 := rfl
@[simp] theorem noRequest_divisor : Inputs.noRequest.divisor = 0#32 := rfl

@[simp] theorem request_reset (g : Bool) (a b : Word) : (Inputs.request g a b).reset = false := rfl
@[simp] theorem request_start (g : Bool) (a b : Word) : (Inputs.request g a b).start = true := rfl
@[simp] theorem request_signed (g : Bool) (a b : Word) : (Inputs.request g a b).signed = g := rfl
@[simp] theorem request_dividend (g : Bool) (a b : Word) : (Inputs.request g a b).dividend = a := rfl
@[simp] theorem request_divisor (g : Bool) (a b : Word) : (Inputs.request g a b).divisor = b := rfl

/-! ### Engine: the step kinds of R85 -/

@[simp] theorem iterateStep_busy (e : Engine) : (iterateStep e).busy = e.busy := rfl
@[simp] theorem iterateStep_done (e : Engine) : (iterateStep e).done = false := rfl
@[simp] theorem iterateStep_cycle (e : Engine) : (iterateStep e).cycle = e.cycle + 1#4 := rfl
@[simp] theorem iterateStep_signedReg (e : Engine) : (iterateStep e).signedReg = e.signedReg := rfl
@[simp] theorem iterateStep_dvdMag (e : Engine) : (iterateStep e).dvdMag = e.dvdMag := rfl
@[simp] theorem iterateStep_dvsMag (e : Engine) : (iterateStep e).dvsMag = e.dvsMag := rfl
@[simp] theorem iterateStep_rem (e : Engine) : (iterateStep e).rem = (twoSubSteps e).1 := rfl
@[simp] theorem iterateStep_quo (e : Engine) : (iterateStep e).quo = (twoSubSteps e).2 := rfl
@[simp] theorem iterateStep_signQ (e : Engine) : (iterateStep e).signQ = e.signQ := rfl
@[simp] theorem iterateStep_signR (e : Engine) : (iterateStep e).signR = e.signR := rfl
@[simp] theorem iterateStep_dbz (e : Engine) : (iterateStep e).dbz = e.dbz := rfl

@[simp] theorem completeStep_busy (e : Engine) : (completeStep e).busy = false := rfl
@[simp] theorem completeStep_done (e : Engine) : (completeStep e).done = true := rfl
@[simp] theorem completeStep_cycle (e : Engine) : (completeStep e).cycle = 0#4 := rfl
@[simp] theorem completeStep_signedReg (e : Engine) : (completeStep e).signedReg = e.signedReg := rfl
@[simp] theorem completeStep_dvdMag (e : Engine) : (completeStep e).dvdMag = e.dvdMag := rfl
@[simp] theorem completeStep_dvsMag (e : Engine) : (completeStep e).dvsMag = e.dvsMag := rfl
@[simp] theorem completeStep_rem (e : Engine) : (completeStep e).rem = (signCorrect e.signR ((twoSubSteps e).1.extractLsb' 0 32)).setWidth 33 := rfl
@[simp] theorem completeStep_quo (e : Engine) : (completeStep e).quo = signCorrect e.signQ (twoSubSteps e).2 := rfl
@[simp] theorem completeStep_signQ (e : Engine) : (completeStep e).signQ = e.signQ := rfl
@[simp] theorem completeStep_signR (e : Engine) : (completeStep e).signR = e.signR := rfl
@[simp] theorem completeStep_dbz (e : Engine) : (completeStep e).dbz = e.dbz := rfl

@[simp] theorem idleStep_busy (e : Engine) : (idleStep e).busy = e.busy := rfl
@[simp] theorem idleStep_done (e : Engine) : (idleStep e).done = false := rfl
@[simp] theorem idleStep_cycle (e : Engine) : (idleStep e).cycle = e.cycle := rfl
@[simp] theorem idleStep_signedReg (e : Engine) : (idleStep e).signedReg = e.signedReg := rfl
@[simp] theorem idleStep_dvdMag (e : Engine) : (idleStep e).dvdMag = e.dvdMag := rfl
@[simp] theorem idleStep_dvsMag (e : Engine) : (idleStep e).dvsMag = e.dvsMag := rfl
@[simp] theorem idleStep_rem (e : Engine) : (idleStep e).rem = e.rem := rfl
@[simp] theorem idleStep_quo (e : Engine) : (idleStep e).quo = e.quo := rfl
@[simp] theorem idleStep_signQ (e : Engine) : (idleStep e).signQ = e.signQ := rfl
@[simp] theorem idleStep_signR (e : Engine) : (idleStep e).signR = e.signR := rfl
@[simp] theorem idleStep_dbz (e : Engine) : (idleStep e).dbz = e.dbz := rfl

@[simp] theorem acceptRun_busy (g : Bool) (a b : Word) : (acceptRun g a b).busy = true := rfl
@[simp] theorem acceptRun_done (g : Bool) (a b : Word) : (acceptRun g a b).done = false := rfl
@[simp] theorem acceptRun_cycle (g : Bool) (a b : Word) : (acceptRun g a b).cycle = 0#4 := rfl
@[simp] theorem acceptRun_signedReg (g : Bool) (a b : Word) : (acceptRun g a b).signedReg = g := rfl
@[simp] theorem acceptRun_dvdMag (g : Bool) (a b : Word) : (acceptRun g a b).dvdMag = magnitude g a := rfl
@[simp] theorem acceptRun_dvsMag (g : Bool) (a b : Word) : (acceptRun g a b).dvsMag = magnitude g b := rfl
@[simp] theorem acceptRun_rem (g : Bool) (a b : Word) : (acceptRun g a b).rem = 0#33 := rfl
@[simp] theorem acceptRun_quo (g : Bool) (a b : Word) : (acceptRun g a b).quo = 0#32 := rfl
@[simp] theorem acceptRun_signQ (g : Bool) (a b : Word) : (acceptRun g a b).signQ = quotientSign g a b := rfl
@[simp] theorem acceptRun_signR (g : Bool) (a b : Word) : (acceptRun g a b).signR = remainderSign g a := rfl
@[simp] theorem acceptRun_dbz (g : Bool) (a b : Word) : (acceptRun g a b).dbz = false := rfl

@[simp] theorem acceptZero_busy (g : Bool) (a b : Word) : (acceptZero g a b).busy = false := rfl
@[simp] theorem acceptZero_done (g : Bool) (a b : Word) : (acceptZero g a b).done = true := rfl
@[simp] theorem acceptZero_cycle (g : Bool) (a b : Word) : (acceptZero g a b).cycle = 0#4 := rfl
@[simp] theorem acceptZero_signedReg (g : Bool) (a b : Word) : (acceptZero g a b).signedReg = g := rfl
@[simp] theorem acceptZero_dvdMag (g : Bool) (a b : Word) : (acceptZero g a b).dvdMag = magnitude g a := rfl
@[simp] theorem acceptZero_dvsMag (g : Bool) (a b : Word) : (acceptZero g a b).dvsMag = magnitude g b := rfl
@[simp] theorem acceptZero_rem (g : Bool) (a b : Word) : (acceptZero g a b).rem = a.setWidth 33 := rfl
@[simp] theorem acceptZero_quo (g : Bool) (a b : Word) : (acceptZero g a b).quo = 0xFFFFFFFF#32 := rfl
@[simp] theorem acceptZero_signQ (g : Bool) (a b : Word) : (acceptZero g a b).signQ = quotientSign g a b := rfl
@[simp] theorem acceptZero_signR (g : Bool) (a b : Word) : (acceptZero g a b).signR = remainderSign g a := rfl
@[simp] theorem acceptZero_dbz (g : Bool) (a b : Word) : (acceptZero g a b).dbz = true := rfl

@[simp] theorem resetStep_busy (n : Nat) : (resetStep n).busy = false := rfl
@[simp] theorem resetStep_done (n : Nat) : (resetStep n).done = false := rfl
@[simp] theorem resetStep_cycle (n : Nat) : (resetStep n).cycle = 0#4 := rfl
@[simp] theorem resetStep_signedReg (n : Nat) : (resetStep n).signedReg = Config.resetSignedReg n := rfl
@[simp] theorem resetStep_dvdMag (n : Nat) : (resetStep n).dvdMag = Config.resetDvdMag n := rfl
@[simp] theorem resetStep_dvsMag (n : Nat) : (resetStep n).dvsMag = Config.resetDvsMag n := rfl
@[simp] theorem resetStep_rem (n : Nat) : (resetStep n).rem = Config.resetRem n := rfl
@[simp] theorem resetStep_quo (n : Nat) : (resetStep n).quo = Config.resetQuo n := rfl
@[simp] theorem resetStep_signQ (n : Nat) : (resetStep n).signQ = Config.resetSignQ n := rfl
@[simp] theorem resetStep_signR (n : Nat) : (resetStep n).signR = Config.resetSignR n := rfl
@[simp] theorem resetStep_dbz (n : Nat) : (resetStep n).dbz = Config.resetDbz n := rfl

@[simp] theorem afterReset_busy (n : Nat) : (Engine.afterReset n).busy = false := rfl
@[simp] theorem afterReset_done (n : Nat) : (Engine.afterReset n).done = false := rfl
@[simp] theorem afterReset_cycle (n : Nat) : (Engine.afterReset n).cycle = 0#4 := rfl
@[simp] theorem afterReset_signedReg (n : Nat) : (Engine.afterReset n).signedReg = Config.resetSignedReg n := rfl
@[simp] theorem afterReset_dvdMag (n : Nat) : (Engine.afterReset n).dvdMag = Config.resetDvdMag n := rfl
@[simp] theorem afterReset_dvsMag (n : Nat) : (Engine.afterReset n).dvsMag = Config.resetDvsMag n := rfl
@[simp] theorem afterReset_rem (n : Nat) : (Engine.afterReset n).rem = Config.resetRem n := rfl
@[simp] theorem afterReset_quo (n : Nat) : (Engine.afterReset n).quo = Config.resetQuo n := rfl
@[simp] theorem afterReset_signQ (n : Nat) : (Engine.afterReset n).signQ = Config.resetSignQ n := rfl
@[simp] theorem afterReset_signR (n : Nat) : (Engine.afterReset n).signR = Config.resetSignR n := rfl
@[simp] theorem afterReset_dbz (n : Nat) : (Engine.afterReset n).dbz = Config.resetDbz n := rfl

end Sys2Proof.Machine
end

