-- ==== Sys2Proof/Laws/Ops.lean ====
section
/-! SUPPORT. What each shared operation can do, said once. -/

namespace Sys2Proof.Machine

/-- R85: the step kinds, with the conditions under which each is taken. -/
theorem edge_cases (n : Nat) (p : Inputs) (e : Engine) :
    (p.reset = true ∧ e.edge n p = resetStep n) ∨
    (p.reset = false ∧ e.busy = true ∧ e.cycle ≠ 15#4 ∧ e.edge n p = iterateStep e) ∨
    (p.reset = false ∧ e.busy = true ∧ e.cycle = 15#4 ∧ e.edge n p = completeStep e) ∨
    (p.reset = false ∧ e.busy = false ∧ p.start = true ∧ p.divisor ≠ 0#32 ∧
      e.edge n p = acceptRun p.signed p.dividend p.divisor) ∨
    (p.reset = false ∧ e.busy = false ∧ p.start = true ∧ p.divisor = 0#32 ∧
      e.edge n p = acceptZero p.signed p.dividend p.divisor) ∨
    (p.reset = false ∧ e.busy = false ∧ p.start = false ∧ e.edge n p = idleStep e) := by
  unfold Engine.edge accept isZeroDivisor Config.lastCycle
  cases p.reset <;> cases e.busy <;> cases p.start <;> by_cases hc : e.cycle = 15#4 <;>
    by_cases hd : p.divisor = 0#32 <;> simp [hc, hd]

/-- A run's edge reads no input port but `reset` (R110). -/
theorem edge_busy (n : Nat) (p : Inputs) (e : Engine) (hr : p.reset = false) (hb : e.busy = true) :
    e.edge n p = if e.cycle = 15#4 then completeStep e else iterateStep e := by
  simp only [Engine.edge, hr, hb, Bool.false_eq_true, if_false, if_true]
  rfl

@[simp] theorem accepts_eq_true (p : Inputs) (e : Engine) :
    accepts p e = true ↔ p.start = true ∧ e.busy = false ∧ p.reset = false := by
  simp [accepts, and_assoc]

theorem accepts_busy (p : Inputs) (e : Engine) (hb : e.busy = true) : accepts p e = false := by
  simp [accepts, hb]

@[simp] theorem readX_zero (u : Upstream) : u.readX 0#5 = 0#32 := by simp [Upstream.readX]

@[simp] theorem writeX_inFlight (u : Upstream) (r : RegNo) (v : Word) : (u.writeX r v).inFlight = u.inFlight := by
  unfold Upstream.writeX; split <;> rfl

@[simp] theorem writeX_captured (u : Upstream) (r : RegNo) (v : Word) : (u.writeX r v).captured = u.captured := by
  unfold Upstream.writeX; split <;> rfl

/-- Register reads see the registers only. -/
@[simp] theorem readX_withInFlight (u : Upstream) (f : Option Writeback) (r : RegNo) :
    ({ u with inFlight := f } : Upstream).readX r = u.readX r := rfl

@[simp] theorem receive_inFlight (u : Upstream) (rd : RegNo) (c : Captured) : (u.receive rd c).inFlight = none := rfl

@[simp] theorem receive_captured (u : Upstream) (rd : RegNo) (c : Captured) : (u.receive rd c).captured = c := rfl

theorem readX_writeX (u : Upstream) (r r' : RegNo) (v : Word) :
    (u.writeX r v).readX r' = if r' = r ∧ r ≠ 0#5 then v else u.readX r' := by
  unfold Upstream.writeX Upstream.readX
  by_cases h0 : r = 0#5
  · simp [h0]
  by_cases hr : r' = r
  · subst hr; simp [h0]
  have hne : r.toNat ≠ r'.toNat := fun h => hr (BitVec.eq_of_toNat_eq h.symm)
  simp [h0, hr, Vector.getElem_set_ne, hne]

/-- The end of an awaited instruction writes its destination register only, and x0 never. -/
theorem readX_receive (u : Upstream) (rd r : RegNo) (c : Captured) :
    (u.receive rd c).readX r = if r = rd ∧ rd ≠ 0#5 then c.value else u.readX r :=
  readX_writeX u rd r c.value

@[simp] theorem track_captured (u : Upstream) (p : Inputs) (acc : Bool) (dest : Option Writeback) :
    (u.track p acc dest).captured = u.captured := by
  unfold Upstream.track; repeat' split
  all_goals rfl

@[simp] theorem track_readX (u : Upstream) (p : Inputs) (acc : Bool) (dest : Option Writeback) (r : RegNo) :
    (u.track p acc dest).readX r = u.readX r := by
  unfold Upstream.track; repeat' split
  all_goals rfl

/-- What the pipeline awaits after an edge. -/
theorem track_inFlight (u : Upstream) (p : Inputs) (acc : Bool) (dest : Option Writeback) :
    (u.track p acc dest).inFlight = if p.reset = true then none else if acc = true then dest else u.inFlight := by
  unfold Upstream.track; repeat' split
  all_goals simp_all

/-- A lost request changes nothing of the pipeline. -/
theorem track_lost (u : Upstream) (p : Inputs) (dest : Option Writeback) (hr : p.reset = false) :
    u.track p false dest = u := by simp [Upstream.track, hr]

/-- Capture does nothing unless a result is there and awaited, and else writes exactly that result. -/
theorem capture_cases (u : Upstream) (e : Engine) :
    (e.done = false ∧ u.capture e = u) ∨ (e.done = true ∧ u.inFlight = none ∧ u.capture e = u) ∨
    ∃ wb, e.done = true ∧ u.inFlight = some wb ∧
      u.capture e = u.receive wb.rd (wb.sel.capturedFrom e) := by
  unfold Upstream.capture
  cases hd : e.done <;> cases hf : u.inFlight <;> simp

theorem capture_not_done (u : Upstream) (e : Engine) (h : e.done = false) : u.capture e = u := by
  simp [Upstream.capture, h]

theorem capture_none (u : Upstream) (e : Engine) (h : u.inFlight = none) : u.capture e = u := by
  unfold Upstream.capture; rw [h]; split <;> rfl

/-- R110: an edge of a run, under any ports without reset: the engine iterates or completes, the pipeline at most captures, and
a request presented at it is lost. -/
theorem clock_of_busy (p : Inputs) (dest : Option Writeback) (s : State) (hr : p.reset = false) (hb : s.engine.busy = true) :
    clock p dest s =
      { s with
        engine := s.engine.edge s.draws p
        upstream := s.upstream.capture (s.engine.edge s.draws p)
        draws := s.draws + 1 } := by
  unfold clock
  rw [accepts_busy _ _ hb, track_lost _ _ _ hr]

/-- R137: an edge of an idle engine without a request. -/
theorem clock_of_idle (dest : Option Writeback) (s : State) (hb : s.engine.busy = false) :
    clock Inputs.noRequest dest s = { s with engine := idleStep s.engine, draws := s.draws + 1 } := by
  have he : s.engine.edge s.draws Inputs.noRequest = idleStep s.engine := by simp [Engine.edge, hb]
  simp only [clock, he]
  rw [capture_not_done _ _ rfl]
  simp [accepts, Upstream.track]

/-- R87: an edge at which a request is accepted. -/
theorem clock_of_request (g : Bool) (a b : Word) (dest : Option Writeback) (s : State) (hb : s.engine.busy = false) :
    clock (Inputs.request g a b) dest s =
      { s with
        engine := accept g a b
        upstream := Upstream.capture { s.upstream with inFlight := dest } (accept g a b)
        draws := s.draws + 1 } := by
  have he : s.engine.edge s.draws (Inputs.request g a b) = accept g a b := by simp [Engine.edge, hb]
  have ha : accepts (Inputs.request g a b) s.engine = true := by simp [hb]
  simp only [clock, he, ha]
  simp [Upstream.track]

/-- R112: the shifted value of a sub-step, as a number. -/
theorem shifted_toNat (dvd : Word) (r : Rem33) (i : Nat) :
    (r.extractLsb' 0 32 ++ BitVec.ofBool (dvd.getLsbD i) : BitVec (32 + 1)).toNat =
      2 * (r.toNat % 2 ^ 32) + (dvd.getLsbD i).toNat := by
  have h := Nat.two_pow_add_eq_or_of_lt (i := 1) (b := 1) (by norm_num) (r.toNat % 4294967296)
  rw [BitVec.toNat_append]
  cases dvd.getLsbD i
  · simp [Nat.shiftLeft_eq, BitVec.extractLsb'_toNat, Nat.mul_comm]
  · simpa [Nat.shiftLeft_eq, BitVec.extractLsb'_toNat, Nat.mul_comm] using h.symm

@[simp] theorem capturedFrom_value (sel : ResultSel) (e : Engine) : (sel.capturedFrom e).value = sel.pick e := rfl

@[simp] theorem capturedFrom_divideByZero (sel : ResultSel) (e : Engine) : (sel.capturedFrom e).divideByZero = e.dbz := rfl

@[simp] theorem pick_quotient (e : Engine) : ResultSel.quotient.pick e = e.quo := rfl

@[simp] theorem pick_remainder (e : Engine) : ResultSel.remainder.pick e = e.rem.extractLsb' 0 32 := rfl

end Sys2Proof.Machine
end

