-- ==== Sys2Proof/Laws/Exec.lean ====
section
/-! SUPPORT. exec, step and runs in terms of the shared operations, said once. -/

namespace Sys2Proof.Machine

/-- Every instruction is one clock edge on the ports it drives, with the destination it names. -/
theorem exec_eq_clock (i : Instr) (s : State) : exec i s = .next (clock (portsOf i s) (destOf i) s) := by
  cases i <;> rfl

/-- The next state of an instruction, by inversion. -/
theorem eq_clock_of_exec (i : Instr) (s t : State) (h : exec i s = .next t) : t = clock (portsOf i s) (destOf i) s := by
  rw [exec_eq_clock] at h
  exact (Host.Outcome.next.inj h).symm

/-- Only RESET drives the reset port. -/
@[simp] theorem portsOf_reset_iff (i : Instr) (s : State) : (portsOf i s).reset = true ↔ i = .reset := by
  cases i <;> simp [portsOf]

theorem portsOf_reset_false (i : Instr) (s : State) (h : i ≠ .reset) : (portsOf i s).reset = false := by
  exact Bool.eq_false_iff.2 (mt (portsOf_reset_iff i s).1 h)

/-- The ports depend on the pipeline's registers alone. -/
theorem portsOf_congr (i : Instr) (s s' : State) (h : s.upstream = s'.upstream) : portsOf i s = portsOf i s' := by
  cases i <;> simp [portsOf, h]

@[simp] theorem presented_cons (s : State) (w : HostWord) (rest : List HostWord) :
    State.presented { s with pending := w :: rest } = w := rfl

theorem presented_of_pending (s : State) (w : HostWord) (rest : List HostWord) (h : s.pending = w :: rest) :
    s.presented = w := by simp [State.presented, h]

theorem step_of_decode (s : State) (i : Instr) (h : decode s.presented = .ok i) : step s = exec i s.consumed := by
  simp [step, h]

/-- What a step can answer: the presented word's instruction has run, or the word is no word for the engine. -/
theorem step_cases (s : State) :
    (∃ i, decode s.presented = .ok i ∧ step s = .next (clock (portsOf i s.consumed) (destOf i) s.consumed)) ∨
    ∃ w, decode s.presented = .error (.notDivFamily w) ∧ step s = .refused (.notDivFamily w) := by
  unfold step
  split
  · next i h => exact .inl ⟨i, h, exec_eq_clock i _⟩
  · next w h => exact .inr ⟨w, h, rfl⟩

theorem runsTo_zero (s t : State) : RunsTo 0 s t ↔ t = s := by
  constructor
  · intro h; exact (Host.Outcome.next.inj h).symm
  · rintro rfl; rfl

/-- A run of one step more: its first step, then the rest. -/
theorem runsTo_succ (k : Nat) (s t : State) : RunsTo (k + 1) s t ↔ ∃ m, step s = .next m ∧ RunsTo k m t := by
  unfold RunsTo
  have h := Host.Core.run.eq_2 core s k
  have hs : core.step s = step s := rfl
  rw [hs] at h
  cases hstep : step s <;> simp only [hstep] at h <;> rw [Nat.succ_eq_add_one] at h <;> simp [h]

/-- The first step of a run whose word is listed and decodes. -/
theorem runsTo_cons (k : Nat) (s t : State) (w : HostWord) (rest : List HostWord) (i : Instr)
    (hp : s.pending = w :: rest) (hd : decode w = .ok i) :
    RunsTo (k + 1) s t ↔
      RunsTo k (clock (portsOf i s) (destOf i) { s with pending := rest }) t := by
  rw [runsTo_succ, step_of_decode s i (by rw [presented_of_pending s w rest hp]; exact hd), exec_eq_clock]
  have hc : s.consumed = { s with pending := rest } := by simp [State.consumed, hp]
  rw [hc, portsOf_congr i { s with pending := rest } s rfl]
  simp

/-- Runs compose. -/
theorem runsTo_add (j k : Nat) (s m t : State) (h1 : RunsTo j s m) (h2 : RunsTo k m t) : RunsTo (j + k) s t := by
  induction j generalizing s with
  | zero => rw [runsTo_zero] at h1; subst h1; simpa using h2
  | succ j ih =>
    obtain ⟨x, hx, hr⟩ := (runsTo_succ j s m).1 h1
    rw [Nat.succ_add]
    exact (runsTo_succ (j + k) s t).2 ⟨x, hx, ih x hr⟩

/-- The one induction of an invariant: what every step keeps, every run keeps. -/
theorem run_keeps (P : State → Prop) (hstep : ∀ s t, P s → step s = .next t → P t) (k : Nat) (s t : State)
    (hs : P s) (h : RunsTo k s t) : P t := by
  induction k generalizing s with
  | zero => rw [runsTo_zero] at h; exact h ▸ hs
  | succ k ih =>
    obtain ⟨m, hm, hr⟩ := (runsTo_succ k s t).1 h
    exact ih m (hstep s m hs hm) hr

end Sys2Proof.Machine
end

