-- ==== Sys2Proof/Laws/PerInstr.lean ====
section
/-! SUPPORT. The statements made per instruction (LAWS.json). RowMatch: the word the encoder writes has the fixed bits of its
row of the opcode table and of no other row of its format (R67, R73). -/

namespace Sys2Proof.Laws.RowMatch

/-- The rows of the word's own format that cover it. -/
def rowsOf : HostWord → List String
  | .step w => (stepRows.filter (fun row => row.covers w)).map (fun row => row.mnemonic)
  | .rv32 w => (rvRows.filter (fun row => row.covers w)).map (fun row => row.mnemonic)

def Statement (i : Instr) : Prop := rowsOf (encode i) = [i.mnemonic]

/-- A word's fixed bits under a mask do not depend on its operand fields. -/
theorem stepWord_mask (r s g : Bool) (a b : Word) (m : StepWord) (hm : ∀ j, j < 64 → m.getLsbD j = false) :
    stepWord r s g a b &&& m = stepWord r s g 0#32 0#32 &&& m := by
  apply BitVec.eq_of_getLsbD_eq
  intro j hj
  simp only [BitVec.getLsbD_and, stepWord_getLsbD]
  by_cases h : j < 64
  · simp [hm j h]
  · simp [h, show ¬ j < 32 by omega]

theorem rows_of_stepWord (r s g : Bool) (a b : Word) :
    rowsOf (.step (stepWord r s g a b)) = rowsOf (.step (stepWord r s g 0#32 0#32)) := by
  have h : ∀ row ∈ stepRows, row.covers (stepWord r s g a b) = row.covers (stepWord r s g 0#32 0#32) := by
    intro row hrow
    unfold OpcodeRow.covers
    rw [stepWord_mask]
    revert row
    decide
  simp only [rowsOf]
  rw [List.filter_congr h]

theorem rvWord_mask (f : BitVec 3) (rd rs1 rs2 : RegNo) : rvWord f rd rs1 rs2 &&& 0xFE00707F#32 = rvWord f 0 0 0 := by
  apply BitVec.eq_of_getLsbD_eq
  intro j hj
  simp only [rvWord, BitVec.getLsbD_and, BitVec.getLsbD_append]
  interval_cases j <;> simp

theorem rows_of_rvWord (f : BitVec 3) (rd rs1 rs2 : RegNo) :
    rowsOf (.rv32 (rvWord f rd rs1 rs2)) = rowsOf (.rv32 (rvWord f 0 0 0)) := by
  have h : ∀ row ∈ rvRows, row.covers (rvWord f rd rs1 rs2) = row.covers (rvWord f 0 0 0) := by
    intro row hrow
    have hm : row.mask = 0xFE00707F#32 := by revert row; decide
    unfold OpcodeRow.covers
    rw [hm, rvWord_mask, rvWord_mask]
  simp only [rowsOf]
  rw [List.filter_congr h]

theorem reset : Statement .reset := by
  unfold Statement
  decide

theorem nop : Statement .nop := by
  unfold Statement
  decide

theorem divreqU (a b : Word) : Statement (.divreqU a b) := by
  exact (rows_of_stepWord ..).trans rfl

theorem divreqS (a b : Word) : Statement (.divreqS a b) := by
  exact (rows_of_stepWord ..).trans rfl

theorem div (rd rs1 rs2 : RegNo) : Statement (.div rd rs1 rs2) := by
  exact (rows_of_rvWord ..).trans rfl

theorem divu (rd rs1 rs2 : RegNo) : Statement (.divu rd rs1 rs2) := by
  exact (rows_of_rvWord ..).trans rfl

theorem rem (rd rs1 rs2 : RegNo) : Statement (.rem rd rs1 rs2) := by
  exact (rows_of_rvWord ..).trans rfl

theorem remu (rd rs1 rs2 : RegNo) : Statement (.remu rd rs1 rs2) := by
  exact (rows_of_rvWord ..).trans rfl

end Sys2Proof.Laws.RowMatch
end

