-- ==== Sys2Proof/Tests/Slice0.lean ====
section
/-! SUPPORT. Tests on single steps; expected values come from spec/95_test_vectors.md (its vector names are given) or are worked
out by hand from the rule named. Then, for every statement with hypotheses, a witness that meets them. -/

namespace Sys2Proof.Tests

open Sys2Proof.Machine

/-! ### Helpers -/

/-- An engine that is idle after the unsigned request 10 / 3 (P1, end state). -/
def idleEngine : Engine := ⟨false, false, 0#4, false, 10#32, 3#32, 1#33, 3#32, false, false, false⟩

/-- The same in the snapshot of its completion. -/
def doneEngine : Engine := { idleEngine with done := true }

/-- A run of -100 / 7 with the given counter and accumulator (95 section 3). -/
def runEngine (c : BitVec 4) (r : Rem33) (q : Word) : Engine :=
  ⟨true, false, c, true, 0x64#32, 7#32, r, q, true, true, false⟩

/-- A machine around an engine, with x1 and x2 set. -/
def machine (e : Engine) (x1 x2 : Word) : State where
  engine := e
  upstream := { xregs := (Upstream.initial.xregs.set 1 x1).set 2 x2, inFlight := none, captured := ⟨6#32, false⟩ }
  pending := []
  draws := 5

/-- The same machine awaiting a result for a register. -/
def State.awaiting (s : State) (rd : RegNo) (sel : ResultSel) : State :=
  { s with upstream := { s.upstream with inFlight := some ⟨rd, sel⟩ } }

/-- The next state, if there is one. -/
def after (i : Instr) (s : State) : Option State :=
  match exec i s with
  | .next t => some t
  | .fault _ => none
  | .refused _ => none

/-- The state after one step, if there is one. -/
def afterStep (s : State) : Option State :=
  match step s with
  | .next t => some t
  | .fault _ => none
  | .refused _ => none

/-! ### WellFormed: each check refuses an ill-formed term -/

theorem test_wf_add_word_refused : HostWord.wf (.rv32 0x002081B3#32) = false := by decide
theorem test_wf_mulhu_word_refused : HostWord.wf (.rv32 0x0220B1B3#32) = false := by decide
theorem test_wf_opcode_refused : HostWord.wf (.rv32 0x0220C1BB#32) = false := by decide
theorem test_wf_literal_low_refused : literalInRange (-2147483649) = false := by decide
theorem test_wf_literal_high_refused : literalInRange 4294967296 = false := by decide
theorem test_wf_literal_bounds_kept : (literalInRange (-2147483648) && literalInRange 4294967295) = true := by decide
theorem test_wf_nop_zero_refused : nopCountOk 0 = false := by decide
theorem test_wf_line_refused : AsmLine.wf (.divreqS 1 4294967296) = false := by decide

/-! ### Decode: one word per constructor, its fields written out from R65 and R73 -/

/-- V-K10: RESET with start = 1. -/
theorem test_decode_reset : decode (.step 0x60000000100000001#67) = .ok .reset := by decide
/-- P1, step 2; the second word has only don't-care bits set. -/
theorem test_decode_nop : decode (.step 0x00000000000000000#67) = .ok .nop ∧
    decode (.step 0x1FFFFFFFFFFFFFFFF#67) = .ok .nop := by decide
/-- V-U1. -/
theorem test_decode_divreqU : decode (.step 0x20000000A00000003#67) = .ok (.divreqU 10#32 3#32) := by decide
/-- V-S1. -/
theorem test_decode_divreqS : decode (.step 0x3FFFFFFF900000002#67) = .ok (.divreqS 0xFFFFFFF9#32 2#32) := by decide
/-- R73: funct7, rs2 = 2, rs1 = 1, funct3 = 100, rd = 3, opcode. -/
theorem test_decode_div : decode (.rv32 0b00000010001000001100000110110011#32) = .ok (.div 3#5 1#5 2#5) := by decide
/-- R73: funct7, rs2 = 7, rs1 = 6, funct3 = 101, rd = 5, opcode. -/
theorem test_decode_divu : decode (.rv32 0b00000010011100110101001010110011#32) = .ok (.divu 5#5 6#5 7#5) := by decide
/-- R73: funct7, rs2 = 31, rs1 = 30, funct3 = 110, rd = 31, opcode. -/
theorem test_decode_rem : decode (.rv32 0b00000011111111110110111110110011#32) = .ok (.rem 31#5 30#5 31#5) := by decide
/-- R73: funct7, rs2 = 9, rs1 = 10, funct3 = 111, rd = 8, opcode. -/
theorem test_decode_remu : decode (.rv32 0b00000010100101010111010000110011#32) = .ok (.remu 8#5 10#5 9#5) := by decide
theorem test_decode_rejects_mul : decode (.rv32 0x022081B3#32) = .error (.notDivFamily 0x022081B3#32) := by decide

/-- V-U12, V-S15, and a register word, the other way. -/
theorem test_encode : encode (.divreqU 0xDEADBEEF#32 0x10#32) = .step 0x2DEADBEEF00000010#67 ∧
    encode (.divreqS 0x64#32 0xFFFFFFF9#32) = .step 0x300000064FFFFFFF9#67 ∧
    encode (.div 3#5 1#5 2#5) = .rv32 0x0220C1B3#32 := by decide

theorem test_table_word_step : decodeTableWord 72 0x20000000A00000003 = some (.divreqU 10#32 3#32) ∧
    decodeTableWord 72 0x40000000000000000 = some .reset ∧ decodeTableWord 72 0 = some .nop ∧
    decodeTableWord 72 0x80000000000000000 = none := by decide
theorem test_table_word_rv : decodeTableWord 32 0x02006033 = some (.rem 0#5 0#5 0#5) ∧
    decodeTableWord 32 0x02000033 = none := by decide
theorem test_fetch_word_runs_first :
    (afterStep (State.reset.withFetchWord 72 0x20000000900000004)).map (fun t => (t.engine.dvdMag, t.engine.dvsMag, t.engine.busy)) =
      some (9#32, 4#32, true) := by decide
theorem test_fetch_rv_word_runs_first :
    (afterStep (State.reset.withFetchWord 32 0x0220C1B3)).map (fun t => (t.engine.dbz, t.upstream.readX 3#5)) =
      some (true, 0xFFFFFFFF#32) := by decide

/-! ### The sub-step and the sign correction (95 sections 2.4, 2.5) -/

/-- V-B3. -/
theorem test_sub_kept : subStep 2#32 3#32 2#33 0#32 1 = (2#33, 2#32) := by decide
/-- V-B2. -/
theorem test_sub_restored : subStep 0x80000000#32 2#32 0#33 0#32 31 = (1#33, 0#32) := by decide
/-- V-B5: the shifted value needs the guard bit. -/
theorem test_sub_guard_bit : subStep 1#32 0xFFFFFFFF#32 0xFFFFFFFE#33 0#32 0 = (0xFFFFFFFE#33, 1#32) := by decide
/-- V-C2, V-C5, V-C8, V-C9. -/
theorem test_sign_correction : signCorrect true 3#32 = 0xFFFFFFFD#32 ∧ signCorrect true 0#32 = 0#32 ∧
    signCorrect true 0x80000000#32 = 0x80000000#32 ∧ signCorrect false 0x80000000#32 = 0x80000000#32 := by decide

/-! ### RESET and NOP -/

/-- V-K9. -/
theorem test_reset_abandons_run :
    (after .reset (machine (runEngine 7#4 0#33 0#32) 0#32 0#32)).map (fun t => t.engine.phase) = some .idle := by decide
/-- V-K1, V-K2: DONE goes to IDLE and the results stay. -/
theorem test_nop_ends_pulse :
    (after .nop (machine doneEngine 0#32 0#32)).map (fun t => t.engine) = some idleEngine := by decide
/-- 95 section 3, snapshot 15 to 16. -/
theorem test_nop_iterates :
    (after .nop (machine (runEngine 14#4 6#33 0#32) 0#32 0#32)).map (fun t => t.engine) =
      some (runEngine 15#4 4#33 0xC#32) := by decide

/-! ### DIVREQ.U and DIVREQ.S -/

/-- V-K3. -/
theorem test_divreqU_accepted :
    (after (.divreqU 9#32 4#32) (machine idleEngine 0#32 0#32)).map (fun t => t.engine) =
      some ⟨true, false, 0#4, false, 9#32, 4#32, 0#33, 0#32, false, false, false⟩ := by decide
/-- V-K7 on the run of 95 section 3: the request at the completing edge is ignored and snapshot 17 follows. -/
theorem test_divreqU_ignored_at_completion :
    (after (.divreqU 1#32 1#32) (machine (runEngine 15#4 4#33 0xC#32) 0#32 0#32)).map (fun t => t.engine) =
      some { runEngine 0#4 0x0FFFFFFFE#33 0xFFFFFFF2#32 with busy := false, done := true } := by decide
/-- V-S1 at acceptance: magnitudes 7 and 2, both sign latches set (R90 to R92). -/
theorem test_divreqS_accepted :
    (after (.divreqS 0xFFFFFFF9#32 2#32) (machine doneEngine 0#32 0#32)).map (fun t => t.engine) =
      some ⟨true, false, 0#4, true, 7#32, 2#32, 0#33, 0#32, true, true, false⟩ := by decide
/-- V-K5 with V-Z5: from DONE, the raw dividend is the remainder and `done` stays 1. -/
theorem test_divreqS_zero_divisor :
    (after (.divreqS 0xFFFFFFF9#32 0#32) (machine doneEngine 0#32 0#32)).map (fun t => t.outputs) =
      some ⟨false, true, 0xFFFFFFFF#32, 0xFFFFFFF9#32, true⟩ := by decide

/-! ### DIV, DIVU, REM, REMU (R72) -/

/-- DIV is a signed request on x1 and x2: here -7 and 2, as in V-S1. -/
theorem test_div_issues :
    (after (.div 3#5 1#5 2#5) (machine idleEngine 0xFFFFFFF9#32 2#32)).map
        (fun t => (t.engine.dvdMag, t.engine.dvsMag, t.engine.signQ, t.engine.signR, t.upstream.inFlight)) =
      some (7#32, 2#32, true, true, some ⟨3#5, .quotient⟩) := by decide
/-- DIV by zero: the quotient is all ones, in x3 at once (R97). -/
theorem test_div_zero :
    (after (.div 3#5 1#5 2#5) (machine idleEngine 5#32 0#32)).map (fun t => t.upstream.readX 3#5) =
      some 0xFFFFFFFF#32 := by decide
/-- DIVU is an unsigned request: bit 31 has no sign meaning (V-U8). -/
theorem test_divu_issues :
    (after (.divu 3#5 1#5 2#5) (machine idleEngine 0x80000000#32 0xFFFFFFFF#32)).map
        (fun t => (t.engine.dvdMag, t.engine.dvsMag, t.engine.signQ, t.engine.signR, t.upstream.inFlight)) =
      some (0x80000000#32, 0xFFFFFFFF#32, false, false, some ⟨3#5, .quotient⟩) := by decide
theorem test_divu_zero_to_x0 :
    (after (.divu 0#5 1#5 2#5) (machine idleEngine 5#32 0#32)).map (fun t => (t.upstream.readX 0#5, t.upstream.readX 1#5)) =
      some (0#32, 5#32) := by decide
/-- REM awaits the remainder; its destination may be a source. -/
theorem test_rem_issues :
    (after (.rem 1#5 1#5 2#5) (machine idleEngine 5#32 0x80000000#32)).map
        (fun t => (t.engine.dvdMag, t.engine.dvsMag, t.engine.signQ, t.engine.signR, t.upstream.inFlight)) =
      some (5#32, 0x80000000#32, true, false, some ⟨1#5, .remainder⟩) := by decide
/-- V-Z6: the raw dividend. -/
theorem test_rem_zero :
    (after (.rem 1#5 1#5 2#5) (machine idleEngine 0x80000000#32 0#32)).map (fun t => t.upstream.readX 1#5) =
      some 0x80000000#32 := by decide
theorem test_remu_zero :
    (after (.remu 31#5 1#5 2#5) (machine idleEngine 7#32 0#32)).map (fun t => t.upstream.readX 31#5) = some 7#32 := by decide
/-- A REMU presented during a run is lost (R88): the awaited DIV still gets its quotient at the completion. -/
theorem test_remu_lost_while_busy :
    (after (.remu 4#5 1#5 2#5) (State.awaiting (machine (runEngine 15#4 4#33 0xC#32) 9#32 8#32) 3#5 .quotient)).map
        (fun t => (t.upstream.readX 3#5, t.upstream.readX 4#5, t.upstream.inFlight)) =
      some (0xFFFFFFF2#32, 0#32, none) := by decide
/-- 95 section 3, snapshot 17, remainder. -/
theorem test_awaited_remainder :
    (after .nop (State.awaiting (machine (runEngine 15#4 4#33 0xC#32) 0#32 0#32) 3#5 .remainder)).map
        (fun t => t.upstream.readX 3#5) = some 0xFFFFFFFE#32 := by decide

/-- R143: `divideByZero` is captured together with the remainder, into x0 as well. -/
theorem test_captured_by_zero :
    (after (.rem 0#5 1#5 2#5) (machine idleEngine 5#32 0#32)).map (fun t => t.upstream.captured) = some ⟨5#32, true⟩ := by decide
/-- 95 section 3, snapshot 17; a plain request leaves the result register alone (log 20). -/
theorem test_captured_at_completion :
    (after .nop (State.awaiting (machine (runEngine 15#4 4#33 0xC#32) 0#32 0#32) 3#5 .quotient)).map
        (fun t => t.upstream.captured) = some ⟨0xFFFFFFF2#32, false⟩ ∧
    (after (.divreqU 9#32 0#32) (machine idleEngine 0#32 0#32)).map (fun t => t.upstream.captured) =
      some ⟨6#32, false⟩ := by decide

/-! ### Assembler (R71) -/

theorem test_assemble_run : (assemble [.reset, .divRun (-7) 2]).map List.length = some 18 := by decide
theorem test_assemble_negative_literal : assembleLine (.divreqU (-7) 2) = some [.step 0x2FFFFFFF900000002#67] := by decide

/-- P2, step 1, as text: `DIVREQ.S -7, 0x02 ; signed`. -/
theorem test_assemble_text :
    assembleText [['D', 'I', 'V', 'R', 'E', 'Q', '.', 'S', ' ', '-', '7', ',', ' ', '0', 'x', '0', '2', ' ', ';', ' ', 's']] =
      some [.step 0x3FFFFFFF900000002#67] := by decide
/-- Text that is no line: an operand after RESET, a missing operand, a negative hexadecimal literal. -/
theorem test_assemble_text_rejects :
    readLine ['R', 'E', 'S', 'E', 'T', ' ', '1'] = none ∧
    readLine ['D', 'I', 'V', 'R', 'E', 'Q', '.', 'U', ' ', '1'] = none ∧ readLiteral ['-', '0', 'x', '1'] = none ∧
    readLine ['N', 'O', 'P', ' ', '1', '6'] = some (.nops 16) := by decide
/-- Log 17: a hexadecimal count is read; spaces may surround a literal and may not stand inside it. -/
theorem test_assemble_text_spaces :
    readLine ['N', 'O', 'P', ' ', '0', 'x', '1', '0', ' '] = some (.nops 16) ∧
    readLine ['N', 'O', 'P', ' ', '-', '1'] = none ∧
    readLine [' ', 'D', 'I', 'V', 'R', 'E', 'Q', '.', 'U', ' ', '1', ' ', ',', ' ', ' ', '3'] = some (.divreqU 1 3) ∧
    readLine ['D', 'I', 'V', 'R', 'E', 'Q', '.', 'U', ' ', '1', ' ', '0', ',', '3'] = none ∧
    readOperand [' ', '-', ' ', '7'] = none := by decide

/-! ### Witnesses: the hypotheses of each statement are met together -/

/-- Sixteen words that keep a run going, a NOP, requests of both kinds and an RV32M word among them. -/
def sixteenWords : List HostWord :=
  [encode .nop, requestWord false 5#32 0#32, requestWord true 1#32 1#32, .rv32 0x0220C1B3#32] ++ List.replicate 12 (encode .nop)

theorem witness_DecoderPriority : (0x40000000000000000#67).getLsbD 66 = true ∧
    (0x1FFFFFFFFFFFFFFFF#67).getLsbD 66 = false ∧ (0x1FFFFFFFFFFFFFFFF#67).getLsbD 65 = false ∧
    (0x2FFFFFFFFFFFFFFFF#67).getLsbD 65 = true ∧ (0x2FFFFFFFFFFFFFFFF#67).getLsbD 64 = false ∧
    (0x3FFFFFFFFFFFFFFFF#67).getLsbD 65 = true ∧ (0x3FFFFFFFFFFFFFFFF#67).getLsbD 64 = true := by decide
theorem witness_DecodeEncodeRoundTrip : (Instr.rem 31#5 30#5 31#5).wf = true := by decide
theorem witness_DecodedWordReencodes :
    decode (.rv32 0x03FF6FB3#32) = .ok (.rem 31#5 30#5 31#5) ∧ (Instr.rem 31#5 30#5 31#5) ≠ .reset ∧
    (Instr.rem 31#5 30#5 31#5) ≠ .nop ∧ decode (.step 0x7FFFFFFFFFFFFFFFF#67) = .ok .reset ∧
    decode (.step 0x1FFFFFFFFFFFFFFFF#67) = .ok .nop := by decide
theorem witness_StepRunsDecodedInstruction :
    ({ State.reset with pending := [.step 0x20000000A00000003#67] } : State).pending = .step 0x20000000A00000003#67 :: [] ∧
    decode (.step 0x20000000A00000003#67) = .ok (.divreqU 10#32 3#32) := by decide
theorem witness_StepSamplesFreeWordWhenNothingListed : (machine idleEngine 0#32 0#32).pending = [] := by decide
theorem witness_StepRefusesOtherUnitsWords :
    ({ State.reset with pending := [.rv32 0x002081B3#32] } : State).pending = .rv32 0x002081B3#32 :: [] ∧
    HostWord.wf (.rv32 0x002081B3#32) = false := by decide
theorem witness_StepAnswersNextOnEveryLegalWord :
    ∀ w ∈ ({ State.reset with pending := [.rv32 0x0220C1B3#32] } : State).pending.head?, w.wf = true := by decide
/-- One pair of words per alternative: reset, no request, and a request to a busy engine. -/
theorem witness_OperandsIgnoredUnlessAccepted :
    ((0x40000000000000000#67).getLsbD 66 = (0x70000000100000001#67).getLsbD 66 ∧ (0x50000000000000000#67).getLsbD 65 = false) ∧
    (0x00000000000000000#67).getLsbD 65 = (0x1FFFFFFFFFFFFFFFF#67).getLsbD 65 ∧
    ((0x20000000000000000#67).getLsbD 65 = (0x30000000100000001#67).getLsbD 65 ∧
      (machine (runEngine 0#4 0#33 0#32) 0#32 0#32).engine.busy = true) := by decide
theorem witness_RequestWhileBusyIsIgnored :
    (Instr.divreqU 1#32 1#32) ≠ .reset ∧ (machine (runEngine 15#4 4#33 0xC#32) 0#32 0#32).engine.busy = true := by decide
theorem witness_AcceptedOutputValue :
    ({ State.reset with pending := [.step 0x20000000A00000003#67] } : State).pending = .step 0x20000000A00000003#67 :: [] ∧
    ({ State.reset with pending := [.rv32 0x0220C1B3#32] } : State).pending = .rv32 0x0220C1B3#32 :: [] ∧
    HostWord.wf (.rv32 0x0220C1B3#32) = true := by decide
theorem witness_IdleStepOnlyClearsDone : (machine doneEngine 0#32 0#32).engine.busy = false ∧
    (machine idleEngine 0#32 0#32).engine.phase = .idle := by decide
theorem witness_IterationStep : (Instr.divreqS 1#32 1#32) ≠ .reset ∧
    (machine (runEngine 14#4 6#33 0#32) 0#32 0#32).engine.busy = true ∧
    (machine (runEngine 14#4 6#33 0#32) 0#32 0#32).engine.cycle ≠ 15#4 := by decide
theorem witness_CompletionStep : Instr.nop ≠ .reset ∧ (machine (runEngine 15#4 4#33 0xC#32) 0#32 0#32).engine.busy = true ∧
    (machine (runEngine 15#4 4#33 0xC#32) 0#32 0#32).engine.cycle = 15#4 ∧
    (machine (runEngine 15#4 4#33 0xC#32) 0#32 0#32).upstream.inFlight = none := by decide
theorem witness_AcceptanceStartsRun : (machine doneEngine 0#32 0#32).engine.busy = false ∧ 0x80000000#32 ≠ 0#32 := by decide
theorem witness_ZeroDivisorShortCircuit : (machine doneEngine 0#32 0#32).engine.busy = false := by decide
theorem witness_DivFamilyIssuesRequest : (machine idleEngine 5#32 3#32).engine.busy = false ∧
    (machine idleEngine 5#32 3#32).upstream.readX 2#5 ≠ 0#32 := by decide
theorem witness_DivFamilyByZero : (machine idleEngine 5#32 3#32).engine.busy = false ∧
    (machine idleEngine 5#32 0#32).upstream.readX 2#5 = 0#32 ∧ (machine idleEngine 5#32 3#32).upstream.readX 0#5 = 0#32 := by decide
theorem witness_AwaitedResultIsCaptured : Instr.nop ≠ .reset ∧
    (State.awaiting (machine (runEngine 15#4 4#33 0xC#32) 0#32 0#32) 3#5 .quotient).engine.busy = true ∧
    (State.awaiting (machine (runEngine 15#4 4#33 0xC#32) 0#32 0#32) 3#5 .quotient).engine.cycle = 15#4 ∧
    (State.awaiting (machine (runEngine 15#4 4#33 0xC#32) 0#32 0#32) 3#5 .quotient).upstream.inFlight =
      some ⟨3#5, .quotient⟩ := by decide
/-- The two cases at their common border: a shifted value equal to the divisor, and one below it. -/
theorem witness_RestoringSubStep : (31 : Nat) < 32 ∧
    (3#32).toNat ≤ 2 * ((1#33).toNat % 2 ^ 32) + ((1#32).getLsbD 0).toNat ∧
    2 * ((1#33).toNat % 2 ^ 32) + ((0#32).getLsbD 0).toNat < (3#32).toNat := by decide
theorem witness_SubStepKeepsRemainderBound : (0xFFFFFFFE#33).toNat < (0xFFFFFFFF#32).toNat := by decide
theorem witness_SignBitComparisonIsExact : (0x7FFFFFFF#33).toNat < (0x80000000#32).toNat := by decide
theorem witness_QuotientBitsOnlySet : Instr.nop ≠ .reset ∧ (machine (runEngine 14#4 6#33 0#32) 0#32 0#32).engine.busy = true ∧
    (machine (runEngine 14#4 6#33 0#32) 0#32 0#32).engine.cycle ≠ 15#4 ∧
    (after .nop (machine (runEngine 14#4 6#33 0#32) 0#32 0#32)).isSome = true ∧ (31 : Nat) < 32 := by decide
theorem witness_DoneIffStepCompletes : (after .nop (machine (runEngine 15#4 4#33 0xC#32) 0#32 0#32)).isSome = true ∧
    (machine doneEngine 0#32 0#32).engine.busy = false ∧ (machine doneEngine 0#32 0#32).engine.done = true := by decide
theorem witness_BusyTransitions : (after (.divreqU 9#32 4#32) (machine idleEngine 0#32 0#32)).isSome = true := by decide
theorem witness_CycleCounter : Instr.divreqU 9#32 4#32 ≠ .reset ∧
    (after (.divreqU 9#32 4#32) (machine idleEngine 0#32 0#32)).isSome = true ∧
    accepts (portsOf (.divreqU 9#32 4#32) (machine idleEngine 0#32 0#32)) (machine idleEngine 0#32 0#32).engine = true ∧
    (machine (runEngine 15#4 4#33 0xC#32) 0#32 0#32).engine.busy = true ∧
    accepts (portsOf .nop (machine idleEngine 0#32 0#32)) (machine idleEngine 0#32 0#32).engine = false := by decide
theorem witness_DivideByZeroFlag : Instr.divreqS 9#32 0#32 ≠ .reset ∧
    (after (.divreqS 9#32 0#32) (machine idleEngine 0#32 0#32)).isSome = true ∧
    accepts (portsOf (.divreqS 9#32 0#32) (machine idleEngine 0#32 0#32)) (machine idleEngine 0#32 0#32).engine = true ∧
    accepts (portsOf (.divreqS 9#32 0#32) (machine (runEngine 0#4 0#33 0#32) 0#32 0#32)) (runEngine 0#4 0#33 0#32) = false := by decide
theorem witness_RequestLatchFrame : Instr.divreqS 9#32 1#32 ≠ .reset ∧
    (after (.divreqS 9#32 1#32) (machine (runEngine 0#4 0#33 0#32) 0#32 0#32)).isSome = true ∧
    accepts (portsOf (.divreqS 9#32 1#32) (machine (runEngine 0#4 0#33 0#32) 0#32 0#32)) (runEngine 0#4 0#33 0#32) = false := by decide
theorem witness_AccumulatorFrame : Instr.nop ≠ .reset ∧ (after .nop (machine doneEngine 0#32 0#32)).isSome = true ∧
    (machine doneEngine 0#32 0#32).engine.busy = false ∧
    accepts (portsOf .nop (machine doneEngine 0#32 0#32)) doneEngine = false := by decide
theorem witness_PipelineRegisterFrame :
    (after (.div 3#5 1#5 2#5) (machine idleEngine 5#32 0#32)).map (fun t => t.upstream.readX 3#5) ≠
      some ((machine idleEngine 5#32 0#32).upstream.readX 3#5) := by decide
theorem witness_ResultRegisterCaptures : (after (.rem 3#5 1#5 2#5) (machine idleEngine 5#32 0#32)).isSome = true ∧
    (after .nop (machine idleEngine 5#32 0#32)).isSome = true := by decide
theorem witness_HostSideFrame : (after (.rem 3#5 1#5 2#5) (machine idleEngine 5#32 3#32)).isSome = true := by decide
theorem witness_OutputValues : (machine idleEngine 0#32 0#32).engine.busy = false ∧
    (machine (runEngine 0#4 0#33 0#32) 0#32 0#32).engine.busy = true := by decide
theorem witness_ResultsStayStableWhileIdle : (∀ w ∈ [encode .nop, .step 0x1FFFFFFFFFFFFFFFF#67], w.isNop = true) ∧
    (machine doneEngine 0#32 0#32).engine.busy = false ∧ [encode .nop] ≠ [] := by decide
theorem witness_PhaseTransitionTable : (after .reset (machine doneEngine 0#32 0#32)).isSome = true ∧
    (after .nop (machine (runEngine 15#4 4#33 0xC#32) 0#32 0#32)).isSome = true ∧
    (machine (runEngine 15#4 4#33 0xC#32) 0#32 0#32).engine.phase = .run 15#4 ∧
    (machine (runEngine 14#4 6#33 0#32) 0#32 0#32).engine.phase = .run 14#4 ∧
    (machine doneEngine 0#32 0#32).engine.phase = .done ∧ (machine idleEngine 0#32 0#32).engine.phase = .idle := by decide
theorem witness_BusyAndDoneExclusive : (after (.divreqU 9#32 4#32) (machine doneEngine 0#32 0#32)).isSome = true := by decide
theorem witness_ResetFromPowerOn : (0x60000000100000001#67).getLsbD 66 = true := by decide
theorem witness_ResetAbandonsRun : ∀ w ∈ [encode .nop, encode .nop], w.isNop = true := by decide

/-- The invariant in the middle of a run: snapshot 16 of 95 section 3, where 30 bits of 100 are consumed: 25 = 3 * 7 + 4. -/
theorem witness_StepKeepsInvariant : (machine (runEngine 15#4 4#33 0xC#32) 0#32 0#32).Inv ∧
    (afterStep { machine (runEngine 15#4 4#33 0xC#32) 0#32 0#32 with pending := [encode .nop] }).isSome = true := by
  refine ⟨⟨⟨?_, ?_, ?_, ?_, ?_, ?_, ?_, ?_⟩, ?_⟩, ?_⟩ <;> decide
theorem witness_RemainderBoundInRun : (machine (runEngine 15#4 4#33 0xC#32) 0#32 0#32).Inv ∧
    (machine (runEngine 15#4 4#33 0xC#32) 0#32 0#32).engine.busy = true :=
  ⟨witness_StepKeepsInvariant.1, rfl⟩

theorem witness_BusyShape : (machine doneEngine 0#32 0#32).engine.busy = false ∧ 3#32 ≠ 0#32 ∧
    sixteenWords.length = 16 ∧ (∀ w ∈ sixteenWords, w.keepsRun = true) ∧ (15 : Nat) < 16 := by decide
theorem witness_UnsignedDivisionResult : (machine doneEngine 0#32 0#32).engine.busy = false ∧ 0xFFFFFFFF#32 ≠ 0#32 ∧
    sixteenWords.length = 16 ∧ ∀ w ∈ sixteenWords, w.keepsRun = true := by decide
theorem witness_SignedDivisionResult : (machine idleEngine 0#32 0#32).engine.busy = false ∧ 0x80000000#32 ≠ 0#32 ∧
    sixteenWords.length = 16 ∧ ∀ w ∈ sixteenWords, w.keepsRun = true := by decide
theorem witness_SignedOverflowResult : (machine idleEngine 0#32 0#32).engine.busy = false ∧
    sixteenWords.length = 16 ∧ ∀ w ∈ sixteenWords, w.keepsRun = true := by decide
theorem witness_ZeroDivisorTiming : (machine idleEngine 0#32 0#32).engine.busy = false ∧
    HostWord.isNop (.step 0x1FFFFFFFFFFFFFFFF#67) = true := by decide
theorem witness_ZeroDivisorThroughput : (machine idleEngine 0#32 0#32).engine.busy = false := by decide
theorem witness_DivFamilyResultInRegister : (machine idleEngine 5#32 3#32).engine.busy = false ∧
    (machine idleEngine 5#32 3#32).upstream.readX 2#5 ≠ 0#32 ∧
    sixteenWords.length = 16 ∧ ∀ w ∈ sixteenWords, w.keepsRun = true := by decide
theorem witness_AssemblerExpansions : (-2 ^ 31 ≤ (-2147483648 : Int) ∧ (-2147483648 : Int) < 2 ^ 32) ∧
    (-2 ^ 31 ≤ (4294967295 : Int) ∧ (4294967295 : Int) < 2 ^ 32) ∧ (2 ^ 32 ≤ (4294967296 : Int)) ∧ 1 ≤ 1 := by decide
/-- Both clauses: a divisor that is not 0 modulo 2^32, and one that is. -/
theorem witness_AssembledRunLeavesResults : (machine idleEngine 0#32 0#32).engine.busy = false ∧
    (assemble [.divuRun (-7) 2]).isSome = true ∧ (2 : Int) % 2 ^ 32 ≠ 0 ∧
    (assemble [.divuRun (-7) 0]).isSome = true ∧ (0 : Int) % 2 ^ 32 = 0 ∧
    (assemble [.divRun (-2147483648) 4294967295]).isSome = true ∧ (4294967295 : Int) % 2 ^ 32 ≠ 0 ∧
    (assemble [.divRun (-7) 0]).isSome = true := by decide

end Sys2Proof.Tests
end

/-! SUPPORT. Proofs of the scope family: the words the engine leaves to other units (R5, R73), and R13's negation. -/

namespace Sys2Proof

/-- The row mask keeps every field that decides membership in the DIV family. -/
@[simp] theorem isDivFamily_and_rvMask (w : RvWord) : RvWord.isDivFamily (w &&& rvMask) = RvWord.isDivFamily w := by
  have hopcode : rvMask.extractLsb' 0 7 = BitVec.allOnes 7 := by decide
  have hfunct7 : rvMask.extractLsb' 25 7 = BitVec.allOnes 7 := by decide
  have hbit14 : rvMask.getLsbD 14 = true := by decide
  simp only [RvWord.isDivFamily, BitVec.extractLsb'_and, BitVec.getLsbD_and, hopcode, hfunct7, hbit14,
    BitVec.and_allOnes, Bool.and_true]

/-- A word outside the DIV family is covered by no row whose fixed bits are the family's. -/
theorem and_rvMask_ne_of_not_isDivFamily (w p : RvWord) (hw : RvWord.isDivFamily w = false)
    (hp : RvWord.isDivFamily p = true) : w &&& rvMask ≠ p := by
  rintro rfl
  simp [hw] at hp

theorem decodeRv_of_not_isDivFamily (w : RvWord) (hw : RvWord.isDivFamily w = false) :
    decodeRv w = .error (.notDivFamily w) := by
  have hrow := fun p => and_rvMask_ne_of_not_isDivFamily w p hw
  rw [decodeRv, if_neg (hrow 0x02004033#32 (by decide)), if_neg (hrow 0x02005033#32 (by decide)),
    if_neg (hrow 0x02006033#32 (by decide)), if_neg (hrow 0x02007033#32 (by decide))]

namespace Machine

theorem step_of_decode_error (s : State) (w : RvWord) (h : decode s.presented = .error (.notDivFamily w)) :
    step s = .refused (.notDivFamily w) := by
  simp [step, h]

/-- Settles O11: no row of the DIV family covers the oldest presented word, so decoding, and with it the step, names it. -/
theorem stepRefusesOtherUnitsWords : Obligations.StepRefusesOtherUnitsWords := by
  intro s w rest hp hwf
  apply step_of_decode_error
  rw [presented_of_pending s _ rest hp, decode_rv32]
  exact decodeRv_of_not_isDivFamily w hwf

theorem neg32_toNat (v : Word) : (neg32 v).toNat = (2 ^ 32 - v.toNat) % 2 ^ 32 :=
  BitVec.toNat_ofNat _ _

/-- R13's formula is the library's two's-complement negation. -/
theorem neg32_eq_neg (v : Word) : neg32 v = -v :=
  BitVec.eq_of_toNat_eq ((neg32_toNat v).trans (BitVec.toNat_neg v).symm)

/-- Settles O25: the formula and two's complement for every word, and the two words negation leaves as they are. -/
theorem negationWraps : Obligations.NegationWraps :=
  ⟨fun v => ⟨neg32_toNat v, neg32_eq_neg v⟩, by decide, by decide⟩

end Machine

end Sys2Proof

/-! SUPPORT. Proofs of the state family: the registers and outputs over all instructions (R21 to R36), and the invariant
(R40, R117, R118). -/

namespace Sys2Proof.Machine

/-! ### R112, R118: the sub-step as a step of long division -/

/-- Bringing down the bit `b` in a long division by `d`, where the divisor fits: one more in the quotient. -/
theorem div_mod_bring_down_of_le (x b d : Nat) (hb : b ≤ 1) (hd : 0 < d) (h : d ≤ 2 * (x % d) + b) :
    (2 * x + b) / d = 2 * (x / d) + 1 ∧ (2 * x + b) % d = 2 * (x % d) + b - d := by
  have hx := Nat.mod_add_div x d
  have hr := Nat.mod_lt x hd
  refine (Nat.div_mod_unique hd).2 ⟨?_, by omega⟩
  have hq : d * (2 * (x / d) + 1) = 2 * (d * (x / d)) + d := by ring
  omega

/-- Bringing down the bit `b` in a long division by `d`, where the divisor does not fit. -/
theorem div_mod_bring_down_of_lt (x b d : Nat) (h : 2 * (x % d) + b < d) :
    (2 * x + b) / d = 2 * (x / d) ∧ (2 * x + b) % d = 2 * (x % d) + b := by
  have hx := Nat.mod_add_div x d
  refine (Nat.div_mod_unique (by omega)).2 ⟨?_, h⟩
  have hq : d * (2 * (x / d)) = 2 * (d * (x / d)) := by ring
  omega

/-- The bits from `i` up are the bits above `i` with bit `i` brought down. -/
theorem toNat_div_two_pow (v : Word) (i : Nat) :
    v.toNat / 2 ^ i = 2 * (v.toNat / 2 ^ (i + 1)) + (v.getLsbD i).toNat := by
  have hbit : (v.getLsbD i).toNat = v.toNat / 2 ^ i % 2 := Nat.toNat_testBit _ _
  rw [hbit, pow_succ, ← Nat.div_div_eq_div_mul, Nat.div_add_mod]

/-- R112: the value a sub-step compares with the divisor. -/
def shiftedValue (dvd : Word) (r : Rem33) (i : Nat) : Nat := 2 * (r.toNat % 2 ^ 32) + (dvd.getLsbD i).toNat

/-- R112: the divisor fits, so it is subtracted and quotient bit `i` is set. -/
theorem subStep_of_le (dvd dvs : Word) (r : Rem33) (q : Word) (i : Nat) (h : dvs.toNat ≤ shiftedValue dvd r i) :
    (subStep dvd dvs r q i).1.toNat = shiftedValue dvd r i - dvs.toNat ∧
      (subStep dvd dvs r q i).2 = q ||| (1#32 <<< i) := by
  have hsh := shifted_toNat dvd r i
  rw [← shiftedValue] at hsh
  rw [subStep, if_pos (hsh ▸ h)]
  refine ⟨?_, rfl⟩
  have hdvs : (dvs.setWidth 33).toNat = dvs.toNat := BitVec.toNat_setWidth_of_le (by decide)
  rw [BitVec.toNat_sub_of_le (BitVec.le_def.2 (by rw [hdvs]; exact hsh ▸ h)), hdvs]
  exact congrArg (· - dvs.toNat) hsh

/-- R112: the divisor does not fit, so the shifted value stays and no quotient bit is set. -/
theorem subStep_of_lt (dvd dvs : Word) (r : Rem33) (q : Word) (i : Nat) (h : shiftedValue dvd r i < dvs.toNat) :
    (subStep dvd dvs r q i).1.toNat = shiftedValue dvd r i ∧ (subStep dvd dvs r q i).2 = q := by
  have hsh := shifted_toNat dvd r i
  rw [← shiftedValue] at hsh
  rw [subStep, if_neg (hsh ▸ Nat.not_le.2 h)]
  exact ⟨hsh, rfl⟩

/-- A quotient bit set below the bits that are there is added to them. -/
theorem toNat_or_bit (q : Word) (n i : Nat) (hi : i < 32) (hq : q.toNat = n * 2 ^ (i + 1)) :
    (q ||| (1#32 <<< i)).toNat = (2 * n + 1) * 2 ^ i := by
  have hbit : (1#32 <<< i).toNat = 2 ^ i := by
    rw [← BitVec.twoPow_eq, BitVec.toNat_twoPow, Nat.mod_eq_of_lt (Nat.pow_lt_pow_right (by decide) hi)]
  have hlt : 2 ^ i < 2 ^ (i + 1) := Nat.pow_lt_pow_right (by decide) (Nat.lt_succ_self i)
  rw [BitVec.toNat_or, hbit, hq, Nat.mul_comm n, ← Nat.two_pow_add_eq_or_of_lt hlt]
  ring

/-- R118: `r` and `q` are the remainder and the quotient, in its place, of the dividend's bits from `t` up. -/
structure PartialDivision (dvd dvs : Word) (r : Rem33) (q : Word) (t : Nat) : Prop where
  rem_eq : r.toNat = dvd.toNat / 2 ^ t % dvs.toNat
  quo_eq : q.toNat = dvd.toNat / 2 ^ t / dvs.toNat * 2 ^ t

section
variable {dvd dvs : Word} {r : Rem33} {q : Word} {t i : Nat}

/-- R117: the remainder bound. -/
theorem PartialDivision.rem_lt (h : PartialDivision dvd dvs r q t) (hd : dvs ≠ 0#32) : r.toNat < dvs.toNat := by
  rw [h.rem_eq]
  exact Nat.mod_lt _ (BitVec.toNat_pos_of_ne_zero hd)

theorem PartialDivision.shiftedValue_eq (h : PartialDivision dvd dvs r q t) (hd : dvs ≠ 0#32) :
    shiftedValue dvd r i = 2 * (dvd.toNat / 2 ^ t % dvs.toNat) + (dvd.getLsbD i).toNat := by
  have hlt : r.toNat < 2 ^ 32 := (h.rem_lt hd).trans dvs.isLt
  rw [shiftedValue, Nat.mod_eq_of_lt hlt, h.rem_eq]

/-- R118: a sub-step on bit `i` divides one bit more. -/
theorem PartialDivision.after_subStep (h : PartialDivision dvd dvs r q (i + 1)) (hd : dvs ≠ 0#32) (hi : i < 32) :
    PartialDivision dvd dvs (subStep dvd dvs r q i).1 (subStep dvd dvs r q i).2 i := by
  have hpos : 0 < dvs.toNat := BitVec.toNat_pos_of_ne_zero hd
  have hsh := h.shiftedValue_eq (i := i) hd
  rcases Nat.lt_or_ge (shiftedValue dvd r i) dvs.toNat with hlt | hle
  · obtain ⟨hr, hq⟩ := subStep_of_lt dvd dvs r q i hlt
    obtain ⟨hdiv, hmod⟩ := div_mod_bring_down_of_lt _ _ _ (hsh ▸ hlt)
    rw [← toNat_div_two_pow] at hdiv hmod
    refine ⟨by rw [hr, hmod, hsh], ?_⟩
    rw [hq, hdiv, h.quo_eq]
    ring
  · obtain ⟨hr, hq⟩ := subStep_of_le dvd dvs r q i hle
    obtain ⟨hdiv, hmod⟩ := div_mod_bring_down_of_le _ _ _ (Bool.toNat_le _) hpos (hsh ▸ hle)
    rw [← toNat_div_two_pow] at hdiv hmod
    exact ⟨by rw [hr, hmod, hsh], by rw [hq, hdiv, toNat_or_bit q _ i hi h.quo_eq]⟩

end

/-! ### R36, R40, R117, R118: the invariant -/

theorem bitsToCome_eq_firstBit_succ (c : BitVec 4) : bitsToCome c = firstBit c + 1 := by
  simp only [bitsToCome, firstBit, Config.bitsPerStep]
  omega

theorem firstBit_eq_secondBit_succ (c : BitVec 4) : firstBit c = secondBit c + 1 := by
  simp only [firstBit, secondBit, Config.bitsPerStep]
  omega

theorem firstBit_lt (c : BitVec 4) : firstBit c < 32 := by
  simp only [firstBit]
  omega

/-- The counter does not wrap before the completing step. -/
theorem cycle_succ_toNat (c : BitVec 4) (hc : c ≠ 15#4) : (c + 1#4).toNat = c.toNat + 1 := by
  bv_omega

theorem bitsToCome_succ (c : BitVec 4) (hc : c ≠ 15#4) : bitsToCome (c + 1#4) = secondBit c := by
  rw [bitsToCome, cycle_succ_toNat c hc, secondBit, Config.bitsPerStep]
  omega

theorem magnitude_eq_zero_iff (g : Bool) (v : Word) : magnitude g v = 0#32 ↔ v = 0#32 := by
  unfold magnitude
  split
  · rw [neg32_eq_neg, BitVec.neg_eq_zero_iff]
  · rfl

/-- R118 before the first sub-step: no bit is consumed. -/
theorem partialDivision_start (dvd dvs : Word) : PartialDivision dvd dvs 0#33 0#32 32 := by
  have h : dvd.toNat / 2 ^ 32 = 0 := Nat.div_eq_of_lt dvd.isLt
  constructor <;> rw [h] <;> simp

section
variable {e : Engine}

theorem Engine.Inv.partialDivision (h : e.Inv) (hb : e.busy = true) :
    PartialDivision e.dvdMag e.dvsMag e.rem e.quo (bitsToCome e.cycle) :=
  ⟨h.partialRemainder hb, h.partialQuotient hb⟩

/-- R114, R118: the two sub-steps of a run's step divide two bits more. -/
theorem Engine.Inv.partialDivision_twoSubSteps (h : e.Inv) (hb : e.busy = true) :
    PartialDivision e.dvdMag e.dvsMag (twoSubSteps e).1 (twoSubSteps e).2 (secondBit e.cycle) := by
  have hd := h.divisorNonzero hb
  have hlt := firstBit_lt e.cycle
  have hstart := h.partialDivision hb
  rw [bitsToCome_eq_firstBit_succ] at hstart
  have hfirst := hstart.after_subStep hd hlt
  rw [firstBit_eq_secondBit_succ] at hfirst hlt
  have hsecond := hfirst.after_subStep hd (Nat.lt_of_succ_lt hlt)
  rwa [← firstBit_eq_secondBit_succ] at hsecond

/-- The clauses about a run say nothing of an engine that is not busy. -/
theorem inv_of_not_busy (hb : e.busy = false) (hcycle : e.done = true → e.cycle = 0#4)
    (hguard : e.done = true → e.rem.getLsbD 32 = false) : e.Inv := by
  exact {
    exclusive := fun h => absurd h (by simp [hb])
    doneCycle := hcycle
    doneGuardBit := hguard
    divisorNonzero := fun h => absurd h (by simp [hb])
    partialRemainder := fun h => absurd h (by simp [hb])
    partialQuotient := fun h => absurd h (by simp [hb])
    flagClear := fun h => absurd h (by simp [hb])
    unsignedLatches := fun h => absurd h (by simp [hb]) }

theorem resetStep_inv (n : Nat) : (resetStep n).Inv := inv_of_not_busy rfl (by simp) (by simp)

theorem idleStep_inv (hb : e.busy = false) : (idleStep e).Inv := inv_of_not_busy hb (by simp) (by simp)

theorem acceptZero_inv (g : Bool) (a b : Word) : (acceptZero g a b).Inv :=
  inv_of_not_busy rfl (by simp) (by simp)

theorem completeStep_inv (e : Engine) : (completeStep e).Inv := inv_of_not_busy rfl (by simp) (by simp)

/-- R95: an accepted request starts a run with no dividend bit consumed. -/
theorem acceptRun_inv (g : Bool) (a b : Word) (hb : b ≠ 0#32) : (acceptRun g a b).Inv where
  exclusive := by simp
  doneCycle := by simp
  doneGuardBit := by simp
  divisorNonzero _ := mt (magnitude_eq_zero_iff g b).1 hb
  partialRemainder _ := (partialDivision_start _ _).rem_eq
  partialQuotient _ := (partialDivision_start _ _).quo_eq
  flagClear := by simp
  unsignedLatches _ hg := by
    rw [acceptRun_signedReg] at hg
    simp [hg, quotientSign, remainderSign]

/-- R114: an iteration step divides two bits more and keeps what acceptance latched. -/
theorem iterateStep_inv (h : e.Inv) (hb : e.busy = true) (hc : e.cycle ≠ 15#4) : (iterateStep e).Inv := by
  have hdiv := h.partialDivision_twoSubSteps hb
  rw [← bitsToCome_succ e.cycle hc] at hdiv
  exact {
    exclusive := by simp
    doneCycle := by simp
    doneGuardBit := by simp
    divisorNonzero := h.divisorNonzero
    partialRemainder := fun _ => hdiv.rem_eq
    partialQuotient := fun _ => hdiv.quo_eq
    flagClear := h.flagClear
    unsignedLatches := h.unsignedLatches }

/-- Every clock edge of the engine keeps its invariant, whatever the input ports carry. -/
theorem Engine.Inv.edge (h : e.Inv) (n : Nat) (p : Inputs) : (e.edge n p).Inv := by
  obtain ⟨-, he⟩ | ⟨-, hb, hc, he⟩ | ⟨-, -, -, he⟩ | ⟨-, -, -, hd, he⟩ | ⟨-, -, -, -, he⟩ | ⟨-, hb, -, he⟩ :=
    edge_cases n p e <;> rw [he]
  · exact resetStep_inv n
  · exact iterateStep_inv h hb hc
  · exact completeStep_inv e
  · exact acceptRun_inv _ _ _ hd
  · exact acceptZero_inv _ _ _
  · exact idleStep_inv hb

end

/-- A completion leaves nothing awaited. -/
theorem capture_inFlight (u : Upstream) (e : Engine) :
    (u.capture e).inFlight = if e.done = true then none else u.inFlight := by
  obtain ⟨hd, hu⟩ | ⟨hd, hf, hu⟩ | ⟨wb, hd, -, hu⟩ := capture_cases u e
  · simp [hd, hu]
  · simp [hd, hf, hu]
  · simp [hd, hu]

/-- What the pipeline awaits after a clock edge. -/
theorem clock_inFlight (p : Inputs) (dest : Option Writeback) (s : State) :
    (clock p dest s).upstream.inFlight =
      if (clock p dest s).engine.done = true ∨ p.reset = true then none
      else if accepts p s.engine = true then dest
      else s.upstream.inFlight := by
  rw [clock_upstream, capture_inFlight, track_inFlight, clock_engine]
  by_cases hd : (s.engine.edge s.draws p).done = true <;> simp [hd]

/-- Log 8, 10, 11: a result awaited after an edge belongs to a run that goes on or has just started. -/
theorem clock_awaited (p : Inputs) (dest : Option Writeback) (s : State) (hs : s.Inv) :
    (clock p dest s).upstream.inFlight.isSome = true → (clock p dest s).engine.busy = true := by
  rw [clock_inFlight, clock_engine]
  obtain ⟨hr, he⟩ | ⟨-, hb, -, he⟩ | ⟨-, -, -, he⟩ | ⟨-, -, -, -, he⟩ | ⟨-, -, -, -, he⟩ | ⟨-, -, hstart, he⟩ :=
    edge_cases s.draws p s.engine <;> rw [he]
  · simp [hr]
  · simp [hb]
  · simp
  · simp
  · simp
  · have hidle : accepts p s.engine = false := by simp [accepts, hstart]
    simp only [hidle, idleStep_busy]
    intro h
    split at h
    · cases h
    · exact hs.awaited h

/-- Settles O48: each step kind of R85 keeps the engine's invariant, and a result is awaited only during a run. -/
theorem stepKeepsInvariant : Obligations.StepKeepsInvariant := by
  intro s t hs hstep
  obtain ⟨i, -, hnext⟩ | ⟨w, -, hrefused⟩ := step_cases s
  · obtain rfl := Host.Outcome.next.inj (hnext.symm.trans hstep)
    have hs' : s.consumed.Inv := ⟨hs.engine, hs.awaited⟩
    exact ⟨hs'.engine.edge _ _, clock_awaited _ _ _ hs'⟩
  · rw [hrefused] at hstep
    cases hstep

/-- Settles O49: the partial remainder is a remainder by the divisor magnitude. -/
theorem remainderBoundInRun : Obligations.RemainderBoundInRun := by
  intro s hs hb
  have hlt := (hs.engine.partialDivision hb).rem_lt (hs.engine.divisorNonzero hb)
  exact ⟨hlt, Nat.testBit_lt_two_pow (hlt.trans s.engine.dvsMag.isLt)⟩

/-- Settles O47: neither flag is set after reset and nothing is awaited. -/
theorem invariantAtReset : Obligations.InvariantAtReset :=
  ⟨resetStep_inv 0, by simp [Upstream.initial]⟩

/-! ### R21 to R31, R36: the registers over all instructions -/

/-- R85 for an instruction: its step kinds, each with the condition under which it is taken. -/
inductive EngineStep (i : Instr) (s t : State) : Prop
  | reset (hi : i = .reset) (ht : t.engine = resetStep s.draws)
  | iterate (hi : i ≠ .reset) (hb : s.engine.busy = true) (hc : s.engine.cycle ≠ 15#4)
      (ht : t.engine = iterateStep s.engine)
  | complete (hi : i ≠ .reset) (hb : s.engine.busy = true) (hc : s.engine.cycle = 15#4)
      (ht : t.engine = completeStep s.engine)
  | acceptRun (hi : i ≠ .reset) (hb : s.engine.busy = false) (hstart : (portsOf i s).start = true)
      (hd : (portsOf i s).divisor ≠ 0#32)
      (ht : t.engine = acceptRun (portsOf i s).signed (portsOf i s).dividend (portsOf i s).divisor)
  | acceptZero (hi : i ≠ .reset) (hb : s.engine.busy = false) (hstart : (portsOf i s).start = true)
      (hd : (portsOf i s).divisor = 0#32)
      (ht : t.engine = acceptZero (portsOf i s).signed (portsOf i s).dividend (portsOf i s).divisor)
  | idle (hi : i ≠ .reset) (hb : s.engine.busy = false) (hstart : (portsOf i s).start = false)
      (ht : t.engine = idleStep s.engine)

theorem portsOf_reset_eq_false_iff (i : Instr) (s : State) : (portsOf i s).reset = false ↔ i ≠ .reset := by
  rw [← Bool.not_eq_true, portsOf_reset_iff]

/-- An instruction's step is one of the six kinds. -/
theorem engineStep_of_exec {i : Instr} {s t : State} (h : exec i s = .next t) : EngineStep i s t := by
  obtain rfl := eq_clock_of_exec i s t h
  have hcases := edge_cases s.draws (portsOf i s) s.engine
  rw [portsOf_reset_iff, portsOf_reset_eq_false_iff] at hcases
  obtain ⟨hi, he⟩ | ⟨hi, hb, hc, he⟩ | ⟨hi, hb, hc, he⟩ | ⟨hi, hb, hs, hd, he⟩ | ⟨hi, hb, hs, hd, he⟩ |
    ⟨hi, hb, hs, he⟩ := hcases
  · exact .reset hi he
  · exact .iterate hi hb hc he
  · exact .complete hi hb hc he
  · exact .acceptRun hi hb hs hd he
  · exact .acceptZero hi hb hs hd he
  · exact .idle hi hb hs he

/-- R34 for an instruction: a request on an engine that is not busy. -/
theorem accepts_portsOf_iff (i : Instr) (s : State) :
    accepts (portsOf i s) s.engine = true ↔
      (portsOf i s).start = true ∧ s.engine.busy = false ∧ i ≠ .reset := by
  rw [accepts_eq_true, portsOf_reset_eq_false_iff]

/-- R22: the two ways to complete a request. -/
theorem done_iff_of_exec {i : Instr} {s t : State} (h : exec i s = .next t) :
    t.engine.done = true ↔ i ≠ .reset ∧
      ((s.engine.busy = true ∧ s.engine.cycle = 15#4) ∨
       (s.engine.busy = false ∧ (portsOf i s).start = true ∧ (portsOf i s).divisor = 0#32)) := by
  cases engineStep_of_exec h with
  | reset hi ht => simp [hi, ht]
  | iterate hi hb hc ht => simp [hb, hc, ht]
  | complete hi hb hc ht => simp [hi, hb, hc, ht]
  | acceptRun hi hb hstart hd ht => simp [hb, hd, ht]
  | acceptZero hi hb hstart hd ht => simp [hi, hb, hstart, hd, ht]
  | idle hi hb hstart ht => simp [hb, hstart, ht]

@[simp] theorem portsOf_request (g : Bool) (a b : Word) (s : State) :
    portsOf (request g a b) s = Inputs.request g a b := by
  cases g <;> rfl

theorem request_ne_reset (g : Bool) (a b : Word) : request g a b ≠ .reset := by
  cases g <;> simp [request]

/-- Settles O31: by the step kinds; a divide-by-zero request completes at once, whatever `done` was before. -/
theorem doneIffStepCompletes : Obligations.DoneIffStepCompletes := by
  refine ⟨fun i s t h => done_iff_of_exec h, fun g a s hb _ => ⟨_, exec_eq_clock _ s, ?_⟩⟩
  exact (done_iff_of_exec (exec_eq_clock _ s)).2 ⟨request_ne_reset g a _, .inr (by simp [hb])⟩

/-- Settles O32: by the step kinds. -/
theorem busyTransitions : Obligations.BusyTransitions := by
  intro i s t h
  cases engineStep_of_exec h with
  | reset hi ht => simp [hi, ht]
  | iterate hi hb hc ht => simp [hi, hb, hc, ht]
  | complete hi hb hc ht => simp [hb, hc, ht]
  | acceptRun hi hb hstart hd ht => simp [hi, hb, hstart, hd, ht]
  | acceptZero hi hb hstart hd ht => simp [hb, hd, ht]
  | idle hi hb hstart ht => simp [hb, hstart, ht]

/-- Settles O43: no step kind leaves both flags set, whatever the state before. -/
theorem busyAndDoneExclusive : Obligations.BusyAndDoneExclusive := by
  intro i s t h
  cases engineStep_of_exec h with
  | reset _ ht | iterate _ _ _ ht | complete _ _ _ ht
  | acceptRun _ _ _ _ ht | acceptZero _ _ _ _ ht | idle _ _ _ ht => simp [ht]

/-- Settles O33: by the step kinds; the counter wraps to 0 at completion only. -/
theorem cycleCounter : Obligations.CycleCounter := by
  intro i s t hne h
  rw [← Bool.not_eq_true (accepts _ _), accepts_portsOf_iff]
  cases engineStep_of_exec h with
  | reset hi ht => exact absurd hi hne
  | iterate hi hb hc ht =>
    have hlt : s.engine.cycle.toNat + 1 < 16 := by bv_omega
    simp [hb, ht, cycle_succ_toNat _ hc, Nat.mod_eq_of_lt hlt]
  | complete hi hb hc ht => simp [hb, hc, ht]
  | acceptRun hi hb hstart hd ht => simp [hi, hb, hstart, ht]
  | acceptZero hi hb hstart hd ht => simp [hi, hb, hstart, ht]
  | idle hi hb hstart ht => simp [hb, hstart, ht]

/-- Settles O34: by the step kinds. -/
theorem divideByZeroFlag : Obligations.DivideByZeroFlag := by
  intro i s t hne h
  rw [← Bool.not_eq_true (accepts _ _), accepts_portsOf_iff, outputs_divideByZero]
  cases engineStep_of_exec h with
  | reset hi ht => exact absurd hi hne
  | iterate hi hb hc ht => simp [hb, ht]
  | complete hi hb hc ht => simp [hb, ht]
  | acceptRun hi hb hstart hd ht => simp [hi, hb, hstart, hd, ht]
  | acceptZero hi hb hstart hd ht => simp [hi, hb, hstart, hd, ht]
  | idle hi hb hstart ht => simp [hstart, ht]

/-- The step kinds that are left when nothing is accepted and the instruction is no reset. -/
theorem engineStep_not_accepting {i : Instr} {s t : State} (hne : i ≠ .reset) (h : exec i s = .next t)
    (hacc : accepts (portsOf i s) s.engine = false) :
    (s.engine.busy = true ∧ (t.engine = iterateStep s.engine ∨ t.engine = completeStep s.engine)) ∨
    (s.engine.busy = false ∧ t.engine = idleStep s.engine) := by
  rw [← Bool.not_eq_true, accepts_portsOf_iff] at hacc
  cases engineStep_of_exec h with
  | reset hi ht => exact absurd hi hne
  | iterate hi hb hc ht => exact .inl ⟨hb, .inl ht⟩
  | complete hi hb hc ht => exact .inl ⟨hb, .inr ht⟩
  | acceptRun hi hb hstart hd ht => exact absurd ⟨hstart, hb, hi⟩ hacc
  | acceptZero hi hb hstart hd ht => exact absurd ⟨hstart, hb, hi⟩ hacc
  | idle hi hb hstart ht => exact .inr ⟨hb, ht⟩

/-- Settles O35: no step of a run and no idle step writes a latch. -/
theorem requestLatchFrame : Obligations.RequestLatchFrame := by
  intro i s t hne h hacc
  obtain ⟨-, ht | ht⟩ | ⟨-, ht⟩ := engineStep_not_accepting hne h hacc <;> simp [ht]

/-- Settles O36: what is left is the idle step, which keeps the accumulator. -/
theorem accumulatorFrame : Obligations.AccumulatorFrame := by
  intro i s t hne h hb hacc
  obtain ⟨hbusy, -⟩ | ⟨-, ht⟩ := engineStep_not_accepting hne h hacc
  · exact absurd hbusy (by simp [hb])
  · simp [ht]

/-! ### R33, R35: the registered outputs -/

theorem outputs_quotient_of_not_busy (s : State) (hb : s.engine.busy = false) : s.outputs.quotient = s.engine.quo := by
  simp [State.outputs, hb]

theorem outputs_remainder_of_not_busy (s : State) (hb : s.engine.busy = false) :
    s.outputs.remainder = s.engine.rem.extractLsb' 0 32 := by
  simp [State.outputs, hb]

theorem outputs_quotient_of_busy (s : State) (hb : s.engine.busy = true) :
    s.outputs.quotient = Config.busyQuotient s.draws := by
  simp [State.outputs, hb]

theorem outputs_remainder_of_busy (s : State) (hb : s.engine.busy = true) :
    s.outputs.remainder = Config.busyRemainder s.draws := by
  simp [State.outputs, hb]

/-- Settles O40: the flags are their registers, the two results by the value of `busy`. -/
theorem outputValues : Obligations.OutputValues := fun s =>
  ⟨outputs_busy s, outputs_done s, outputs_divideByZero s,
    fun hb => ⟨outputs_quotient_of_not_busy s hb, outputs_remainder_of_not_busy s hb⟩,
    fun hb => ⟨outputs_quotient_of_busy s hb, outputs_remainder_of_busy s hb⟩⟩

/-! ### R34: the output `accepted` -/

/-- The fields the row mask keeps, `funct7`, `funct3` and `opcode`, in their places (R73). -/
theorem and_rvMask_eq_fields (w : RvWord) :
    w &&& rvMask = w.extractLsb' 25 7 ++ 0#10 ++ w.extractLsb' 12 3 ++ 0#5 ++ w.extractLsb' 0 7 := by
  apply BitVec.eq_of_getLsbD_eq
  intro j hj
  simp only [BitVec.getLsbD_and, BitVec.getLsbD_append, BitVec.getLsbD_extractLsb']
  interval_cases j <;> simp [rvMask]

/-- A word of the DIV family has the fixed bits of one of the four rows: `funct3` is 100, 101, 110 or 111 (R73). -/
theorem and_rvMask_of_isDivFamily (w : RvWord) (hw : RvWord.isDivFamily w = true) :
    w &&& rvMask = 0x02004033#32 ∨ w &&& rvMask = 0x02005033#32 ∨ w &&& rvMask = 0x02006033#32 ∨
      w &&& rvMask = 0x02007033#32 := by
  simp only [RvWord.isDivFamily, Bool.and_eq_true, beq_iff_eq] at hw
  obtain ⟨⟨hopcode, hfunct7⟩, hbit14⟩ := hw
  have hfunct3 : (w.extractLsb' 12 3).getLsbD 2 = true := by simpa [BitVec.getLsbD_extractLsb'] using hbit14
  rw [and_rvMask_eq_fields, hopcode, hfunct7]
  generalize w.extractLsb' 12 3 = funct3 at hfunct3
  revert funct3
  decide

theorem decodeRv_ne_error_of_isDivFamily (w : RvWord) (hw : RvWord.isDivFamily w = true) :
    decodeRv w ≠ .error (.notDivFamily w) := by
  obtain h | h | h | h := and_rvMask_of_isDivFamily w hw <;> simp [decodeRv, h]

theorem acceptedOutput_of_decode (s : State) (i : Instr) (h : decode s.presented = .ok i) :
    s.acceptedOutput = accepts (portsOf i s) s.engine := by
  simp [State.acceptedOutput, h]

theorem acceptedOutput_of_request (s : State) (i : Instr) {g : Bool} {a b : Word} (h : decode s.presented = .ok i)
    (hports : portsOf i s = Inputs.request g a b) : s.acceptedOutput = !s.engine.busy := by
  simp [acceptedOutput_of_decode s i h, hports, accepts]

/-- R34 for a step word: `start` is bit 65 and `reset` is bit 66 (R65). -/
theorem acceptedOutput_step (s : State) (w : StepWord) (h : s.presented = .step w) :
    s.acceptedOutput = (w.getLsbD 65 && !s.engine.busy && !w.getLsbD 66) := by
  have hdecode : decode s.presented = .ok (decodeStep w) := by rw [h, decode_step]
  obtain ⟨h66, hw⟩ | ⟨h66, h65, hw⟩ | ⟨h66, h65, -, hw⟩ | ⟨h66, h65, -, hw⟩ := decodeStep_cases w <;>
    rw [hw] at hdecode
  · rw [acceptedOutput_of_decode s _ hdecode, h66]
    simp [accepts, portsOf]
  · rw [acceptedOutput_of_decode s _ hdecode, h66, h65]
    simp [accepts, portsOf]
  · rw [acceptedOutput_of_request s _ hdecode rfl, h66, h65]
    simp
  · rw [acceptedOutput_of_request s _ hdecode rfl, h66, h65]
    simp

/-- R34 for a word of the DIV family, which stands for a request (R72). -/
theorem acceptedOutput_rv32 (s : State) (w : RvWord) (h : s.presented = .rv32 w) (hw : RvWord.isDivFamily w = true) :
    s.acceptedOutput = !s.engine.busy := by
  have hdecode : decode s.presented = decodeRv w := by rw [h, decode_rv32]
  obtain hi | hi | hi | hi | hi := decodeRv_cases w
  · exact acceptedOutput_of_request s _ (hdecode.trans hi) rfl
  · exact acceptedOutput_of_request s _ (hdecode.trans hi) rfl
  · exact acceptedOutput_of_request s _ (hdecode.trans hi) rfl
  · exact acceptedOutput_of_request s _ (hdecode.trans hi) rfl
  · exact absurd hi (decodeRv_ne_error_of_isDivFamily w hw)

/-- Settles O15: a step word's bits are the ports, and a word of the DIV family is a request. -/
theorem acceptedOutputValue : Obligations.AcceptedOutputValue :=
  ⟨fun s w rest hp => acceptedOutput_step s w (presented_of_pending s _ rest hp),
    fun s w rest hp hw => acceptedOutput_rv32 s w (presented_of_pending s _ rest hp) hw⟩

/-- Settles O44: the control registers are 0, so the request word's start bit is accepted. -/
theorem stateAfterReset : Obligations.StateAfterReset := by
  refine ⟨rfl, rfl, rfl, rfl, fun g a b => ?_⟩
  rw [acceptedOutput_step _ (stepWord false true g a b) rfl, stepWord_getLsbD, stepWord_getLsbD]
  simp

end Sys2Proof.Machine

/-! SUPPORT. Proofs of the encoding family: the decoder and the encoder (R65, R67, R70, R73), the step on what they give
(R68, R74, R155), the DIV family in the pipeline (R72, R143), and the assembler (R71). -/

namespace Sys2Proof

/-! ### R65: the fields of the step word -/

@[simp] theorem stepDividend_stepWord (r s g : Bool) (a b : Word) : stepDividend (stepWord r s g a b) = a := by
  apply BitVec.eq_of_getLsbD_eq
  intro j hj
  have hlow : ¬ 32 + j < 32 := by omega
  have hhigh : 32 + j < 64 := by omega
  simp [stepDividend, stepWord_getLsbD, hj, hlow, hhigh]

@[simp] theorem stepDivisor_stepWord (r s g : Bool) (a b : Word) : stepDivisor (stepWord r s g a b) = b := by
  apply BitVec.eq_of_getLsbD_eq
  intro j hj
  simp [stepDivisor, stepWord_getLsbD, hj]

/-- A step word has no bit outside its five fields. -/
theorem eq_stepWord_fields (w : StepWord) :
    w = stepWord (w.getLsbD 66) (w.getLsbD 65) (w.getLsbD 64) (stepDividend w) (stepDivisor w) := by
  apply BitVec.eq_of_getLsbD_eq
  intro j hj
  rw [stepWord_getLsbD]
  split
  · next h => simp [stepDivisor, h]
  split
  · next h32 h64 =>
    have hlt : j - 32 < 32 := by omega
    simp [stepDividend, hlt, Nat.add_sub_cancel' (Nat.not_lt.1 h32)]
  obtain rfl | rfl | rfl : j = 64 ∨ j = 65 ∨ j = 66 := by omega
  all_goals simp

/-- Settles O1: each field is read where the layout puts it, and the fields leave no bit out. -/
theorem stepWordLayout : Obligations.StepWordLayout := by
  refine ⟨fun r s g a b => ?_, eq_stepWord_fields⟩
  refine ⟨?_, ?_, ?_, stepDividend_stepWord r s g a b, stepDivisor_stepWord r s g a b⟩ <;> rw [stepWord_getLsbD] <;> rfl

/-! ### R67, R70: the decoder and the rows of the step word -/

/-- R70's decoder on a word given by its fields. -/
theorem decodeStep_stepWord (r s g : Bool) (a b : Word) :
    decodeStep (stepWord r s g a b) =
      if r then .reset else if !s then .nop else if !g then .divreqU a b else .divreqS a b := by
  rw [decodeStep, stepWord_getLsbD, stepWord_getLsbD, stepWord_getLsbD, stepDividend_stepWord, stepDivisor_stepWord]
  rfl

/-- Settles O2: the cases of the decoder exclude each other. -/
theorem decoderPriority : Obligations.DecoderPriority := by
  intro w
  obtain ⟨h66, hw⟩ | ⟨h66, h65, hw⟩ | ⟨h66, h65, h64, hw⟩ | ⟨h66, h65, h64, hw⟩ := decodeStep_cases w
  · rw [decode_step, hw, h66]
    simp
  · rw [decode_step, hw, h66, h65]
    simp
  · rw [decode_step, hw, h66, h65, h64]
    simp [stepDividend, stepDivisor]
  · rw [decode_step, hw, h66, h65, h64]
    simp [stepDividend, stepDivisor]

/-- R67: the control bits alone choose the row, and the decoder chooses the same one. -/
theorem rowsOf_stepWord (r s g : Bool) (a b : Word) :
    Laws.RowMatch.rowsOf (.step (stepWord r s g a b)) = [(decodeStep (stepWord r s g a b)).mnemonic] := by
  rw [Laws.RowMatch.rows_of_stepWord, decodeStep_stepWord]
  cases r <;> cases s <;> cases g <;> rfl

/-- Settles O3: every word is built from its fields, whose control bits choose the row. -/
theorem stepWordMatchesExactlyOneRow : Obligations.StepWordMatchesExactlyOneRow := by
  intro w
  refine ⟨_, decode_step w, ?_⟩
  rw [eq_stepWord_fields w]
  exact rowsOf_stepWord _ _ _ _ _

/-- R67: what a row's mask leaves of a word is fixed by the control bits. -/
theorem and_mask_eq (w m : StepWord) (hm : ∀ j, j < 64 → m.getLsbD j = false) :
    w &&& m = stepWord (w.getLsbD 66) (w.getLsbD 65) (w.getLsbD 64) 0#32 0#32 &&& m := by
  rw [← Laws.RowMatch.stepWord_mask _ _ _ (stepDividend w) (stepDivisor w) m hm, ← eq_stepWord_fields]

/-! ### R73: the fields and the rows of the RV32 word -/

/-- The fixed bits of an R-type word of the DIV family are its `funct3` between two constants. -/
@[simp] theorem rvWord_and_rvMask (f : BitVec 3) (rd rs1 rs2 : RegNo) : rvWord f rd rs1 rs2 &&& rvMask = rvWord f 0 0 0 :=
  Laws.RowMatch.rvWord_mask f rd rs1 rs2

@[simp] theorem rvRd_rvWord (f : BitVec 3) (rd rs1 rs2 : RegNo) : rvRd (rvWord f rd rs1 rs2) = rd := by
  apply BitVec.eq_of_getLsbD_eq
  intro j hj
  simp only [rvRd, rvWord, BitVec.getLsbD_extractLsb', BitVec.getLsbD_append]
  interval_cases j <;> simp

@[simp] theorem rvRs1_rvWord (f : BitVec 3) (rd rs1 rs2 : RegNo) : rvRs1 (rvWord f rd rs1 rs2) = rs1 := by
  apply BitVec.eq_of_getLsbD_eq
  intro j hj
  simp only [rvRs1, rvWord, BitVec.getLsbD_extractLsb', BitVec.getLsbD_append]
  interval_cases j <;> simp

@[simp] theorem rvRs2_rvWord (f : BitVec 3) (rd rs1 rs2 : RegNo) : rvRs2 (rvWord f rd rs1 rs2) = rs2 := by
  apply BitVec.eq_of_getLsbD_eq
  intro j hj
  simp only [rvRs2, rvWord, BitVec.getLsbD_extractLsb', BitVec.getLsbD_append]
  interval_cases j <;> simp

/-- A word with the fixed bits of a row is the R-type word of its own operand fields. -/
theorem eq_rvWord_of_and_rvMask (w : RvWord) (f : BitVec 3) (h : w &&& rvMask = rvWord f 0 0 0) :
    w = rvWord f (rvRd w) (rvRs1 w) (rvRs2 w) := by
  have hoperands : w &&& ~~~rvMask = rvWord f (rvRd w) (rvRs1 w) (rvRs2 w) &&& ~~~rvMask := by
    apply BitVec.eq_of_getLsbD_eq
    intro j hj
    simp only [rvWord, rvRd, rvRs1, rvRs2, BitVec.getLsbD_and, BitVec.getLsbD_append, BitVec.getLsbD_extractLsb']
    interval_cases j <;> simp [rvMask]
  have hsplit : ∀ v : RvWord, v = (v &&& rvMask) ||| (v &&& ~~~rvMask) := by
    intro v
    rw [← BitVec.and_or_distrib_left, BitVec.or_not_self, BitVec.and_allOnes]
  calc w = (w &&& rvMask) ||| (w &&& ~~~rvMask) := hsplit w
    _ = (rvWord f (rvRd w) (rvRs1 w) (rvRs2 w) &&& rvMask) |||
          (rvWord f (rvRd w) (rvRs1 w) (rvRs2 w) &&& ~~~rvMask) := by rw [h, hoperands, rvWord_and_rvMask]
    _ = rvWord f (rvRd w) (rvRs1 w) (rvRs2 w) := (hsplit _).symm

/-- R73's decoder by the fixed bits of the word. -/
theorem decodeRv_by_row (w : RvWord) :
    (w &&& rvMask = rvWord 0b100#3 0 0 0 ∧ decodeRv w = .ok (.div (rvRd w) (rvRs1 w) (rvRs2 w))) ∨
    (w &&& rvMask = rvWord 0b101#3 0 0 0 ∧ decodeRv w = .ok (.divu (rvRd w) (rvRs1 w) (rvRs2 w))) ∨
    (w &&& rvMask = rvWord 0b110#3 0 0 0 ∧ decodeRv w = .ok (.rem (rvRd w) (rvRs1 w) (rvRs2 w))) ∨
    (w &&& rvMask = rvWord 0b111#3 0 0 0 ∧ decodeRv w = .ok (.remu (rvRd w) (rvRs1 w) (rvRs2 w))) ∨
    (RvWord.isDivFamily w = false ∧ decodeRv w = .error (.notDivFamily w)) := by
  cases hw : RvWord.isDivFamily w
  · simp [decodeRv_of_not_isDivFamily w hw]
  obtain h | h | h | h := Machine.and_rvMask_of_isDivFamily w hw
  · exact .inl ⟨h, by simp [decodeRv, h]⟩
  · exact .inr (.inl ⟨h, by simp [decodeRv, h]⟩)
  · exact .inr (.inr (.inl ⟨h, by simp [decodeRv, h]⟩))
  · exact .inr (.inr (.inr (.inl ⟨h, by simp [decodeRv, h]⟩)))

/-- What the decoder accepts of an RV32 word, with that word written out by its fields. -/
theorem encode_of_decodeRv {w : RvWord} {i : Instr} (h : decodeRv w = .ok i) : encode i = .rv32 w := by
  obtain ⟨hrow, hi⟩ | ⟨hrow, hi⟩ | ⟨hrow, hi⟩ | ⟨hrow, hi⟩ | ⟨-, hi⟩ := decodeRv_by_row w
  all_goals rw [hi] at h
  case inr.inr.inr.inr => cases h
  all_goals
    obtain rfl := Except.ok.inj h
    exact congrArg HostWord.rv32 (eq_rvWord_of_and_rvMask w _ hrow).symm

/-- The encoder's word has the fixed bits of its instruction's row and of no other. -/
theorem rowsOf_encode (i : Instr) : Laws.RowMatch.rowsOf (encode i) = [i.mnemonic] := by
  cases i with
  | reset => exact Laws.RowMatch.reset
  | nop => exact Laws.RowMatch.nop
  | divreqU a b => exact Laws.RowMatch.divreqU a b
  | divreqS a b => exact Laws.RowMatch.divreqS a b
  | div rd rs1 rs2 => exact Laws.RowMatch.div rd rs1 rs2
  | divu rd rs1 rs2 => exact Laws.RowMatch.divu rd rs1 rs2
  | rem rd rs1 rs2 => exact Laws.RowMatch.rem rd rs1 rs2
  | remu rd rs1 rs2 => exact Laws.RowMatch.remu rd rs1 rs2

/-- R73: the fixed bits of every row are those of the DIV family, so no row covers another word. -/
theorem rvRows_filter_of_not_isDivFamily (w : RvWord) (hw : RvWord.isDivFamily w = false) :
    rvRows.filter (fun row => row.covers w) = [] := by
  have hrows : ∀ row ∈ rvRows, row.mask = rvMask ∧ RvWord.isDivFamily row.value = true := by decide
  refine List.filter_eq_nil_iff.2 fun row hrow => ?_
  obtain ⟨hmask, hvalue⟩ := hrows row hrow
  simpa [OpcodeRow.covers, hmask] using and_rvMask_ne_of_not_isDivFamily w _ hw hvalue

/-- Settles O4: an accepted word is the encoding of its instruction, which one row covers; no row covers another word. -/
theorem rvWordDecodesByRow : Obligations.RvWordDecodesByRow := by
  intro w
  have hrow : ∀ i, decodeRv w = .ok i →
      (rvRows.filter (fun row => row.covers w)).map (fun row => row.mnemonic) = [i.mnemonic] := by
    intro i hi
    have h := rowsOf_encode i
    rwa [encode_of_decodeRv hi] at h
  obtain ⟨-, hi⟩ | ⟨-, hi⟩ | ⟨-, hi⟩ | ⟨-, hi⟩ | ⟨hw, hi⟩ := decodeRv_by_row w
  case inr.inr.inr.inr => exact .inl ⟨rvRows_filter_of_not_isDivFamily w hw, hi⟩
  all_goals exact .inr ⟨_, hi, hrow _ hi, by simp [rvRd, rvRs1, rvRs2]⟩

/-! ### R65, R67, R73: decoder and encoder are inverse -/

theorem decode_encode (i : Instr) : decode (encode i) = .ok i := by
  cases i with
  | reset | nop | divreqU a b | divreqS a b => simp [encode, decodeStep_stepWord]
  | div rd rs1 rs2 | divu rd rs1 rs2 | rem rd rs1 rs2 | remu rd rs1 rs2 =>
    rw [encode, decode_rv32, decodeRv, rvWord_and_rvMask, rvRd_rvWord, rvRs1_rvWord, rvRs2_rvWord]
    rfl

/-- Settles O5: the decoder reads each field where the encoder puts it. -/
theorem decodeEncodeRoundTrip : Obligations.DecodeEncodeRoundTrip := fun i _ => decode_encode i

/-- A step word of a row without don't-care bits is the encoding of what it decodes to. -/
theorem encode_decodeStep {w : StepWord} (hr : decodeStep w ≠ .reset) (hn : decodeStep w ≠ .nop) :
    encode (decodeStep w) = .step w := by
  have hfields := eq_stepWord_fields w
  obtain ⟨-, hw⟩ | ⟨-, -, hw⟩ | ⟨h66, h65, h64, hw⟩ | ⟨h66, h65, h64, hw⟩ := decodeStep_cases w
  · exact absurd hw hr
  · exact absurd hw hn
  · rw [hw, hfields, h66, h65, h64]
    simp [encode]
  · rw [hw, hfields, h66, h65, h64]
    simp [encode]

theorem decodeStep_eq_reset_iff (w : StepWord) : decodeStep w = .reset ↔ w.getLsbD 66 = true := by
  obtain ⟨h66, hw⟩ | ⟨h66, -, hw⟩ | ⟨h66, -, -, hw⟩ | ⟨h66, -, -, hw⟩ := decodeStep_cases w <;> rw [hw, h66] <;> simp

theorem decodeStep_eq_nop_iff (w : StepWord) :
    decodeStep w = .nop ↔ w.getLsbD 66 = false ∧ w.getLsbD 65 = false := by
  obtain ⟨h66, hw⟩ | ⟨h66, h65, hw⟩ | ⟨h66, h65, -, hw⟩ | ⟨h66, h65, -, hw⟩ := decodeStep_cases w
  · rw [hw, h66]
    simp
  all_goals
    rw [hw, h66, h65]
    simp

/-- Settles O6: by the words' fields; of RESET and NOP the mask keeps the control bits only. -/
theorem decodedWordReencodes : Obligations.DecodedWordReencodes := by
  refine ⟨fun w i hi hr hn => ?_, fun w hw => ?_, fun w hw => ?_⟩
  · cases w with
    | step w =>
      obtain rfl := Except.ok.inj hi
      exact encode_decodeStep hr hn
    | rv32 w => exact encode_of_decodeRv hi
  · rw [decode_step, Except.ok.injEq, decodeStep_eq_reset_iff] at hw
    rw [and_mask_eq w _ (by decide), hw]
    cases w.getLsbD 65 <;> cases w.getLsbD 64 <;> decide
  · rw [decode_step, Except.ok.injEq, decodeStep_eq_nop_iff] at hw
    obtain ⟨h66, h65⟩ := hw
    rw [and_mask_eq w _ (by decide), h66, h65]
    cases w.getLsbD 64 <;> decide

/-- R68, R73: the decoder accepts a word if and only if it is well formed. -/
theorem exists_decode_iff_wf (w : HostWord) : (∃ i, decode w = .ok i) ↔ w.wf = true := by
  cases w with
  | step w => simp [HostWord.wf]
  | rv32 w =>
    rw [decode_rv32, HostWord.wf]
    cases hw : RvWord.isDivFamily w
    · simp [decodeRv_of_not_isDivFamily w hw]
    · refine iff_of_true ?_ rfl
      obtain hi | hi | hi | hi | hi := decodeRv_cases w
      case inr.inr.inr.inr => exact absurd hi (Machine.decodeRv_ne_error_of_isDivFamily w hw)
      all_goals exact ⟨_, hi⟩

/-- Settles O7: by the two formats; every step word decodes. -/
theorem decoderAcceptsExactlyWellFormedWords : Obligations.DecoderAcceptsExactlyWellFormedWords :=
  ⟨exists_decode_iff_wf, fun w => (exists_decode_iff_wf (.step w)).1 ⟨_, decode_step w⟩⟩

/-- Settles O8: the decoder evaluated on the eight words. -/
theorem writtenOutWordsDecode : Obligations.WrittenOutWordsDecode := by
  unfold Obligations.WrittenOutWordsDecode
  decide

namespace Machine

/-! ### R68, R74, R155: the step on the presented word -/

theorem presented_of_pending_nil (s : State) (h : s.pending = []) :
    s.presented = .step (Config.hostStepWord s.draws) := by
  simp [State.presented, h]

theorem consumed_of_pending_nil (s : State) (h : s.pending = []) : s.consumed = s := by
  have htail : s.pending.tail = s.pending := by rw [h, List.tail_nil]
  rw [State.consumed, htail]

/-- Settles O10: the free word is presented, and there is no word to consume. -/
theorem stepSamplesFreeWordWhenNothingListed : Obligations.StepSamplesFreeWordWhenNothingListed := by
  intro s hp
  have hdecode : decode s.presented = .ok (decodeStep (Config.hostStepWord s.draws)) := by
    rw [presented_of_pending_nil s hp, decode_step]
  rw [step_of_decode s _ hdecode, consumed_of_pending_nil s hp]

/-- R68: the free word of an empty list is a step word, so only a listed word can be ill formed. -/
theorem presented_wf (s : State) (h : ∀ w ∈ s.pending.head?, w.wf = true) : s.presented.wf = true := by
  cases hp : s.pending with
  | nil => rw [presented_of_pending_nil s hp, HostWord.wf]
  | cons w rest => rw [presented_of_pending s w rest hp]; exact h w (by simp [hp])

/-- Settles O12: a well-formed word decodes, and every instruction answers a next state. -/
theorem stepAnswersNextOnEveryLegalWord : Obligations.StepAnswersNextOnEveryLegalWord := by
  intro s h
  obtain ⟨i, hi⟩ := (exists_decode_iff_wf s.presented).2 (presented_wf s h)
  exact ⟨_, (step_of_decode s i hi).trans (exec_eq_clock i _)⟩

/-! ### R90 to R92: the latches by the operands' sign bits -/

theorem opNegative_eq (g : Bool) (v : Word) : opNegative g v = (g && v.msb) := by
  rw [opNegative, BitVec.msb_eq_getLsbD_last]

theorem magnitude_eq (g : Bool) (v : Word) : magnitude g v = if g && v.msb then -v else v := by
  rw [magnitude, opNegative_eq, neg32_eq_neg]

theorem quotientSign_eq (g : Bool) (a b : Word) : quotientSign g a b = (g && (a.msb ^^ b.msb)) := by
  rw [quotientSign, opNegative_eq, opNegative_eq]
  cases g <;> simp

theorem remainderSign_eq (g : Bool) (a : Word) : remainderSign g a = (g && a.msb) := by
  rw [remainderSign, opNegative_eq]
  cases g <;> simp

/-- R95 with the latches written out. -/
theorem acceptRun_eq (g : Bool) (a b : Word) :
    acceptRun g a b = {
      signedReg := g
      dvdMag := if g && a.msb then -a else a
      dvsMag := if g && b.msb then -b else b
      signQ := g && (a.msb ^^ b.msb)
      signR := g && a.msb
      dbz := false, quo := 0#32, rem := 0#33, cycle := 0#4, busy := true, done := false } := by
  rw [acceptRun, magnitude_eq, magnitude_eq, quotientSign_eq, remainderSign_eq]

theorem accept_of_ne_zero (g : Bool) (a b : Word) (hb : b ≠ 0#32) : accept g a b = acceptRun g a b := by
  simp [accept, isZeroDivisor, hb]

theorem accept_zero (g : Bool) (a : Word) : accept g a 0#32 = acceptZero g a 0#32 := by
  simp [accept, isZeroDivisor]

/-! ### R72, R143: the DIV family in the pipeline -/

theorem capture_of_done (u : Upstream) (e : Engine) (wb : Writeback) (hd : e.done = true) (hf : u.inFlight = some wb) :
    u.capture e = u.receive wb.rd (wb.sel.capturedFrom e) := by
  simp [Upstream.capture, hd, hf]

/-- R95: a request with a non-zero divisor on an engine that is not busy starts its run, awaited for `dest`. -/
theorem clock_of_request_run (g : Bool) (a b : Word) (dest : Option Writeback) (s : State)
    (hb : s.engine.busy = false) (hdvs : b ≠ 0#32) :
    clock (Inputs.request g a b) dest s =
      { s with
        engine := acceptRun g a b
        upstream := { s.upstream with inFlight := dest }
        draws := s.draws + 1 } := by
  rw [clock_of_request g a b dest s hb, accept_of_ne_zero g a b hdvs, capture_not_done _ _ (acceptRun_done g a b)]

/-- R96: a request with divisor zero on an engine that is not busy completes at once, and the pipeline takes its result. -/
theorem clock_of_request_zero (g : Bool) (a : Word) (dest : Option Writeback) (s : State) (hb : s.engine.busy = false) :
    clock (Inputs.request g a 0#32) dest s =
      { s with
        engine := acceptZero g a 0#32
        upstream := Upstream.capture { s.upstream with inFlight := dest } (acceptZero g a 0#32)
        draws := s.draws + 1 } := by
  rw [clock_of_request g a 0#32 dest s hb, accept_zero]

/-- Settles O22: each of the four is one edge that accepts its request. -/
theorem divFamilyIssuesRequest : Obligations.DivFamilyIssuesRequest := by
  intro rd rs1 rs2 s hb hdvs a b started
  have hissue : ∀ g sel, issue g sel rd rs1 rs2 s = started g sel := by
    intro g sel
    rw [issue, clock_of_request_run g a b _ s hb hdvs, acceptRun_eq]
  exact ⟨congrArg _ (hissue true .quotient), congrArg _ (hissue true .remainder),
    congrArg _ (hissue false .quotient), congrArg _ (hissue false .remainder)⟩

/-- What the end of an awaited instruction leaves of the pipeline: its destination, x0 apart, holds the captured value,
no other register has changed, and nothing is awaited. -/
structure Delivers (u u' : Upstream) (rd : RegNo) (c : Captured) : Prop where
  dest : u'.readX rd = if rd = 0#5 then 0#32 else c.value
  others : ∀ r, r ≠ rd → u'.readX r = u.readX r
  inFlight : u'.inFlight = none
  captured : u'.captured = c

/-- R72, R143: a capture delivers the awaited result; `u` is the pipeline before the edge, which awaited it or
issues it now. -/
theorem capture_delivers (u u' : Upstream) (e : Engine) (wb : Writeback) (hread : ∀ r, u'.readX r = u.readX r)
    (hd : e.done = true) (hf : u'.inFlight = some wb) :
    Delivers u (u'.capture e) wb.rd (wb.sel.capturedFrom e) := by
  rw [capture_of_done u' e wb hd hf]
  refine ⟨?_, fun r hr => ?_, receive_inFlight _ _ _, receive_captured _ _ _⟩
  · rw [readX_receive]
    by_cases h0 : wb.rd = 0#5 <;> simp [h0]
  · simp [readX_receive, hr, hread]

@[simp] theorem extractLsb'_setWidth_33 (v : Word) : (v.setWidth 33).extractLsb' 0 32 = v := by
  apply BitVec.eq_of_getLsbD_eq
  intro j hj
  have hlt : j < 33 := by omega
  simp [hj, hlt]

/-- R96, R97, R143: an instruction of the DIV family with divisor zero is over in the next snapshot. -/
theorem issue_zero_divisor (g : Bool) (sel : ResultSel) (rd rs1 rs2 : RegNo) (s : State) (hb : s.engine.busy = false)
    (hdvs : s.upstream.readX rs2 = 0#32) :
    (issue g sel rd rs1 rs2 s).engine = acceptZero g (s.upstream.readX rs1) 0#32 ∧
    Delivers s.upstream (issue g sel rd rs1 rs2 s).upstream rd
      (sel.capturedFrom (acceptZero g (s.upstream.readX rs1) 0#32)) ∧
    (issue g sel rd rs1 rs2 s).pending = s.pending := by
  rw [issue, hdvs, clock_of_request_zero g _ _ s hb]
  exact ⟨rfl, capture_delivers _ _ (acceptZero _ _ _) ⟨rd, sel⟩ (readX_withInFlight s.upstream _) rfl rfl, rfl⟩

/-- Settles O23: the short-circuit's result is delivered at the accepting edge, whatever the mode. -/
theorem divFamilyByZero : Obligations.DivFamilyByZero := by
  intro rd rs1 rs2 s hb hdvs written
  have hissue : ∀ g sel v, sel.pick (acceptZero g (s.upstream.readX rs1) 0#32) = v →
      written (issue g sel rd rs1 rs2 s) v := by
    rintro g sel _ rfl
    obtain ⟨he, hdel, hp⟩ := issue_zero_divisor g sel rd rs1 rs2 s hb hdvs
    refine ⟨?_, ?_, ?_, hdel.dest, hdel.others, hdel.inFlight, hdel.captured, hp⟩ <;> rw [he] <;> rfl
  exact ⟨⟨_, rfl, hissue true .quotient _ rfl⟩, ⟨_, rfl, hissue false .quotient _ rfl⟩,
    ⟨_, rfl, hissue true .remainder _ (extractLsb'_setWidth_33 _)⟩,
    ⟨_, rfl, hissue false .remainder _ (extractLsb'_setWidth_33 _)⟩⟩

/-- R130, R143: the completing step, under any ports without reset, delivers the awaited result. -/
theorem clock_completes (p : Inputs) (dest : Option Writeback) (s : State) (wb : Writeback) (hr : p.reset = false)
    (hb : s.engine.busy = true) (hc : s.engine.cycle = 15#4) (hf : s.upstream.inFlight = some wb) :
    (clock p dest s).engine = completeStep s.engine ∧
    Delivers s.upstream (clock p dest s).upstream wb.rd (wb.sel.capturedFrom (completeStep s.engine)) := by
  rw [clock_of_busy p dest s hr hb, edge_busy _ p _ hr hb, if_pos hc]
  exact ⟨rfl, capture_delivers _ _ (completeStep s.engine) wb (fun _ => rfl) rfl hf⟩

/-- Settles O24: once the run is over, the outputs show the registers the result was taken from. -/
theorem awaitedResultIsCaptured : Obligations.AwaitedResultIsCaptured := by
  intro i s wb hi hb hc hf
  obtain ⟨he, hdel⟩ := clock_completes (portsOf i s) (destOf i) s wb (portsOf_reset_false i s hi) hb hc hf
  have hdone : (clock (portsOf i s) (destOf i) s).engine.busy = false := by rw [he, completeStep_busy]
  refine ⟨_, exec_eq_clock i s, by rw [he, completeStep_done], ?_⟩
  rw [outputs_quotient_of_not_busy _ hdone, outputs_remainder_of_not_busy _ hdone, outputs_divideByZero, he]
  obtain ⟨rd, sel⟩ := wb
  cases sel <;> exact ⟨hdel.dest, hdel.others, hdel.inFlight, hdel.captured⟩

/-- Settles O37: only a capture writes a register, and it writes the awaited instruction's destination. -/
theorem pipelineRegisterFrame : Obligations.PipelineRegisterFrame := by
  intro i s t r h hne
  obtain rfl := eq_clock_of_exec i s t h
  rw [clock_upstream] at hne
  rw [clock_engine]
  obtain ⟨-, hu⟩ | ⟨-, -, hu⟩ | ⟨wb, hd, hf, hu⟩ :=
    capture_cases (s.upstream.track (portsOf i s) (accepts (portsOf i s) s.engine) (destOf i))
      (s.engine.edge s.draws (portsOf i s))
  · simp [hu] at hne
  · simp [hu] at hne
  · refine ⟨hd, wb, ?_, ?_⟩
    · by_contra hrd
      simp [hu, readX_receive, Ne.symm hrd] at hne
    · rw [track_inFlight] at hf
      split at hf
      · cases hf
      · exact hf

/-- Settles O39: by the definitions of the two accesses. -/
theorem registerZeroReadsZero : Obligations.RegisterZeroReadsZero := fun u v =>
  ⟨readX_zero u, by rw [Upstream.writeX, if_pos rfl]⟩

/-! ### R114, R130, R139, R140: whole requests -/

/-- A run's engine once it has completed: the quotient and the remainder of the latched magnitudes, signed by the latches. -/
def Engine.finished (e : Engine) : Engine :=
  { e with
    quo := signCorrect e.signQ (e.dvdMag / e.dvsMag)
    rem := (signCorrect e.signR (e.dvdMag % e.dvsMag)).setWidth 33
    busy := false
    done := true
    cycle := 0#4 }

@[simp] theorem finished_done (e : Engine) : e.finished.done = true := rfl
@[simp] theorem finished_busy (e : Engine) : e.finished.busy = false := rfl
@[simp] theorem finished_dbz (e : Engine) : e.finished.dbz = e.dbz := rfl
@[simp] theorem finished_quo (e : Engine) : e.finished.quo = signCorrect e.signQ (e.dvdMag / e.dvsMag) := rfl
@[simp] theorem finished_rem (e : Engine) :
    e.finished.rem = (signCorrect e.signR (e.dvdMag % e.dvsMag)).setWidth 33 := rfl

/-- A run's step changes nothing its result depends on. -/
theorem finished_iterateStep (e : Engine) : (iterateStep e).finished = e.finished := rfl

/-- R118: after the last two sub-steps every dividend bit is consumed. -/
theorem Engine.Inv.twoSubSteps_last {e : Engine} (h : e.Inv) (hb : e.busy = true) (hc : e.cycle = 15#4) :
    (twoSubSteps e).2 = e.dvdMag / e.dvsMag ∧ (twoSubSteps e).1.extractLsb' 0 32 = e.dvdMag % e.dvsMag := by
  have hdiv := h.partialDivision_twoSubSteps hb
  have hlast : secondBit e.cycle = 0 := by rw [hc]; rfl
  rw [hlast] at hdiv
  constructor
  · apply BitVec.eq_of_toNat_eq
    simpa using hdiv.quo_eq
  · have hlt : (twoSubSteps e).1.toNat < 2 ^ 32 := (hdiv.rem_lt (h.divisorNonzero hb)).trans e.dvsMag.isLt
    apply BitVec.eq_of_toNat_eq
    rw [BitVec.extractLsb'_toNat, Nat.shiftRight_zero, Nat.mod_eq_of_lt hlt]
    simpa using hdiv.rem_eq

/-- R130: the completing step leaves the finished engine. -/
theorem completeStep_eq_finished {e : Engine} (h : e.Inv) (hb : e.busy = true) (hc : e.cycle = 15#4) :
    completeStep e = e.finished := by
  obtain ⟨hquo, hrem⟩ := h.twoSubSteps_last hb hc
  rw [completeStep, Engine.finished, hquo, hrem]

/-- R110, R114, R130: from any point of a run, the remaining edges, whatever but reset is presented at them, finish it. -/
theorem runsTo_finished (ws rest : List HostWord) (s : State) (hinv : s.engine.Inv) (hb : s.engine.busy = true)
    (hlen : s.engine.cycle.toNat + ws.length = 16) (hws : ∀ w ∈ ws, w.keepsRun = true) (hp : s.pending = ws ++ rest) :
    RunsTo ws.length s
      { engine := s.engine.finished
        upstream := s.upstream.capture s.engine.finished
        pending := rest
        draws := s.draws + ws.length } := by
  induction ws generalizing s with
  | nil =>
    rw [List.length_nil] at hlen
    omega
  | cons w ws ih =>
    rw [List.forall_mem_cons] at hws
    obtain ⟨i, hi, hne⟩ := (keepsRun_iff w).1 hws.1
    have hr : (portsOf i s).reset = false := portsOf_reset_false i s hne
    rw [List.length_cons] at hlen ⊢
    rw [runsTo_cons _ s _ w (ws ++ rest) i hp hi, clock_of_busy _ _ { s with pending := ws ++ rest } hr hb,
      edge_busy _ _ _ hr hb]
    by_cases hc : s.engine.cycle = 15#4
    · have hcycle : s.engine.cycle.toNat = 15 := congrArg BitVec.toNat hc
      obtain rfl : ws = [] := List.length_eq_zero_iff.1 (by omega)
      rw [if_pos hc, completeStep_eq_finished hinv hb hc, List.length_nil, runsTo_zero]
      rfl
    · rw [if_neg hc, capture_not_done _ _ (iterateStep_done _)]
      have h := ih { s with engine := iterateStep s.engine, pending := ws ++ rest, draws := s.draws + 1 }
        (iterateStep_inv hinv hb hc) hb (by rw [iterateStep_cycle, cycle_succ_toNat _ hc]; omega) hws.2 rfl
      simpa only [finished_iterateStep, Nat.add_assoc, Nat.add_comm 1] using h

/-- R189: a request with a non-zero divisor, presented by any word to an engine that is not busy, is finished
17 edges later. -/
theorem runsTo_of_request (w : HostWord) (i : Instr) (g : Bool) (a b : Word) (ws rest : List HostWord) (s : State)
    (hb : s.engine.busy = false) (hi : decode w = .ok i) (hports : portsOf i s = Inputs.request g a b) (hdvs : b ≠ 0#32)
    (hlen : ws.length = 16) (hws : ∀ w ∈ ws, w.keepsRun = true) (hp : s.pending = w :: ws ++ rest) :
    RunsTo 17 s
      { engine := (acceptRun g a b).finished
        upstream := Upstream.capture { s.upstream with inFlight := destOf i } (acceptRun g a b).finished
        pending := rest
        draws := s.draws + 17 } := by
  rw [runsTo_cons 16 s _ w (ws ++ rest) i hp hi, hports,
    clock_of_request_run g a b _ { s with pending := ws ++ rest } hb hdvs]
  have h := runsTo_finished ws rest
    { s with
      engine := acceptRun g a b
      upstream := { s.upstream with inFlight := destOf i }
      pending := ws ++ rest
      draws := s.draws + 1 }
    (acceptRun_inv g a b hdvs) rfl (by rw [hlen]; rfl) hws rfl
  rwa [hlen] at h

theorem signCorrect_eq (sign : Bool) (m : Word) : signCorrect sign m = if sign then -m else m := by
  rw [signCorrect, neg32_eq_neg]
  by_cases hm : m = 0#32 <;> cases sign <;> simp [hm]

/-- R139, R140: the quotient of a finished request, truncated toward zero in signed mode. -/
theorem quotient_of_request (g : Bool) (a b : Word) :
    ResultSel.quotient.pick (acceptRun g a b).finished =
      if g then BitVec.ofInt 32 (Int.tdiv a.toInt b.toInt) else a / b := by
  rw [pick_quotient, finished_quo, signCorrect_eq, acceptRun_eq]
  cases g with
  | false => rfl
  | true =>
    have hdiv : BitVec.ofInt 32 (Int.tdiv a.toInt b.toInt) = a.sdiv b := by
      apply BitVec.eq_of_toInt_eq
      rw [BitVec.toInt_ofInt, BitVec.toInt_sdiv]
    rw [hdiv, BitVec.sdiv_eq]
    cases a.msb <;> cases b.msb <;> rfl

/-- R139, R140: the remainder of a finished request, with the dividend's sign in signed mode. -/
theorem remainder_of_request (g : Bool) (a b : Word) :
    ResultSel.remainder.pick (acceptRun g a b).finished =
      if g then BitVec.ofInt 32 (Int.tmod a.toInt b.toInt) else a % b := by
  rw [pick_remainder, finished_rem, extractLsb'_setWidth_33, signCorrect_eq, acceptRun_eq]
  cases g with
  | false => rfl
  | true =>
    have hmod : BitVec.ofInt 32 (Int.tmod a.toInt b.toInt) = a.srem b := by
      rw [← BitVec.toInt_srem, BitVec.ofInt_toInt]
    rw [hmod, BitVec.srem_eq]
    cases a.msb <;> cases b.msb <;> rfl

/-- Settles O56: the request of each of the four runs to its end, where the pipeline takes the result. -/
theorem divFamilyResultInRegister : Obligations.DivFamilyResultInRegister := by
  intro rd rs1 rs2 ws rest s hb hdvs hlen hws a b leaves
  have hleaves : ∀ i g sel v, portsOf i s = Inputs.request g a b → destOf i = some ⟨rd, sel⟩ →
      sel.pick (acceptRun g a b).finished = v → leaves i v := by
    rintro i g sel _ hports hdest rfl
    have hrun := runsTo_of_request (encode i) i g a b ws rest { s with pending := encode i :: ws ++ rest } hb
      (decode_encode i) ((portsOf_congr i _ s rfl).trans hports) hdvs hlen hws rfl
    rw [hdest] at hrun
    have hdel := capture_delivers _ _ (acceptRun g a b).finished ⟨rd, sel⟩ (readX_withInFlight s.upstream _) rfl rfl
    exact ⟨_, hrun, rfl, hdel.dest, hdel.others, hdel.captured, rfl⟩
  exact ⟨hleaves _ true .quotient _ rfl rfl (quotient_of_request true a b),
    hleaves _ false .quotient _ rfl rfl ((quotient_of_request false a b).trans BitVec.udiv_def),
    hleaves _ true .remainder _ rfl rfl (remainder_of_request true a b),
    hleaves _ false .remainder _ rfl rfl ((remainder_of_request false a b).trans BitVec.umod_def)⟩

/-! ### R71: the assembler -/

theorem literalBits_toNat (v : Int) : ((literalBits v).toNat : Int) = v % 2 ^ 32 := by
  rw [literalBits, BitVec.toNat_ofInt, Int.toNat_of_nonneg (Int.emod_nonneg v (by decide))]
  rfl

theorem literalBits_eq_zero_iff (v : Int) : literalBits v = 0#32 ↔ v % 2 ^ 32 = 0 := by
  rw [← literalBits_toNat, ← BitVec.toNat_inj]
  simp

theorem literalInRange_iff (v : Int) : literalInRange v = true ↔ -2 ^ 31 ≤ v ∧ v < 2 ^ 32 := by
  simp [literalInRange]

/-- R71: a line that names two literals is rejected if one of them is out of range. -/
theorem literals_rejected {a b : Int} (h : a < -2 ^ 31 ∨ 2 ^ 32 ≤ a ∨ b < -2 ^ 31 ∨ 2 ^ 32 ≤ b) :
    ¬ (literalInRange a && literalInRange b) = true := by
  rw [Bool.and_eq_true, literalInRange_iff, literalInRange_iff]
  omega

theorem assembleLine_of_wf (l : AsmLine) (h : l.wf = true) : assembleLine l = some (l.expand.map encode) := if_pos h

theorem assembleLine_of_not_wf (l : AsmLine) (h : ¬ l.wf = true) : assembleLine l = none := if_neg h

theorem assemble_singleton (l : AsmLine) : assemble [l] = assembleLine l := by
  rw [assemble, assemble]
  cases assembleLine l <;> simp

theorem assemble_pair (l l' : AsmLine) (ws ws' : List HostWord) (h : assembleLine l = some ws)
    (h' : assembleLine l' = some ws') : assemble [l, l'] = some (ws ++ ws') := by
  rw [assemble, assemble_singleton, h, h']

@[simp] theorem encode_request (g : Bool) (a b : Word) : encode (request g a b) = requestWord g a b := by
  cases g <;> rfl

/-- R71: `DIVU.RUN` and `DIV.RUN` by the mode they request. -/
def runLine (g : Bool) (x y : Int) : AsmLine := if g then .divRun x y else .divuRun x y

/-- R71: the line `DIVU.RUN` and `DIV.RUN` begin with. -/
def requestLine (g : Bool) (x y : Int) : AsmLine := if g then .divreqS x y else .divreqU x y

/-- R71: the words of a `.RUN` line: the request word and 16 NOP words. -/
def runWords (g : Bool) (x y : Int) : List HostWord :=
  requestWord g (literalBits x) (literalBits y) :: List.replicate 16 (encode .nop)

theorem assembleLine_nops (n : Nat) (hn : 1 ≤ n) : assembleLine (.nops n) = some (List.replicate n (encode .nop)) := by
  have hwf : (AsmLine.nops n).wf = true := by simp [AsmLine.wf, nopCountOk, hn]
  rw [assembleLine_of_wf _ hwf, AsmLine.expand, List.map_replicate]

section
variable (g : Bool) {x y : Int} (hxy : (literalInRange x && literalInRange y) = true)
include hxy

theorem assembleLine_runLine : assembleLine (runLine g x y) = some (runWords g x y) := by
  cases g <;> exact assembleLine_of_wf _ hxy

/-- R71: a `.RUN` line is the two lines it expands to. -/
theorem assemble_runLine : assemble [runLine g x y] = assemble [requestLine g x y, .nops 16] := by
  have hrequest : assembleLine (requestLine g x y) = some [requestWord g (literalBits x) (literalBits y)] := by
    cases g <;> exact assembleLine_of_wf _ hxy
  rw [assemble_singleton, assembleLine_runLine g hxy, assemble_pair _ _ _ _ hrequest (assembleLine_nops 16 (by decide))]
  rfl

end

/-- Settles O57: by the lines' checks and expansions. -/
theorem assemblerExpansions : Obligations.AssemblerExpansions := by
  refine ⟨fun v _ _ => literalBits_toNat v, fun a b h => ?_, assembleLine_of_not_wf _ (by decide), assembleLine_nops,
    fun a b ha ha' hb hb' => ?_⟩
  · have hbad := literals_rejected h
    exact ⟨assembleLine_of_not_wf _ hbad, assembleLine_of_not_wf _ hbad, assembleLine_of_not_wf _ hbad,
      assembleLine_of_not_wf _ hbad⟩
  · have hab : (literalInRange a && literalInRange b) = true := by
      rw [Bool.and_eq_true, literalInRange_iff, literalInRange_iff]
      exact ⟨⟨ha, ha'⟩, hb, hb'⟩
    exact ⟨assemble_runLine false hab, assemble_runLine true hab, assembleLine_runLine false hab,
      assembleLine_runLine true hab⟩

theorem keepsRun_of_isNop (w : HostWord) (h : w.isNop = true) : w.keepsRun = true :=
  (keepsRun_iff w).2 ⟨.nop, (isNop_iff w).1 h, by simp⟩

@[simp] theorem idleStep_idleStep (e : Engine) : idleStep (idleStep e) = idleStep e := rfl

/-- R137, R138: on an engine that is not busy, words without a request clear `done` and leave the rest of the machine. -/
theorem runsTo_idle (w : HostWord) (ws rest : List HostWord) (s : State) (hb : s.engine.busy = false)
    (hws : ∀ v ∈ w :: ws, v.isNop = true) (hp : s.pending = w :: ws ++ rest) :
    RunsTo (ws.length + 1) s
      { s with engine := idleStep s.engine, pending := rest, draws := s.draws + (ws.length + 1) } := by
  induction ws generalizing w s with
  | nil =>
    rw [List.forall_mem_singleton, isNop_iff] at hws
    rw [List.length_nil, runsTo_cons 0 s _ w rest .nop hp hws, runsTo_zero]
    exact (clock_of_idle none { s with pending := rest } hb).symm
  | cons v ws ih =>
    rw [List.forall_mem_cons, isNop_iff] at hws
    rw [List.length_cons, runsTo_cons (ws.length + 1) s _ w (v :: ws ++ rest) .nop hp hws.1]
    have h := ih v { s with engine := idleStep s.engine, pending := v :: ws ++ rest, draws := s.draws + 1 } hb hws.2 rfl
    rw [portsOf, destOf, clock_of_idle none { s with pending := v :: ws ++ rest } hb]
    simpa only [idleStep_idleStep, Nat.add_assoc, Nat.add_comm 1] using h

theorem isNop_of_mem_replicate (n : Nat) : ∀ w ∈ List.replicate n (encode .nop), w.isNop = true := by
  intro w hw
  rw [List.eq_of_mem_replicate hw, isNop_iff, decode_encode]

theorem decode_requestWord (g : Bool) (a b : Word) : decode (requestWord g a b) = .ok (request g a b) := by
  rw [← encode_request, decode_encode]

/-- R71, R189: a `.RUN` line's words with a non-zero divisor end with the finished request. -/
theorem runsTo_runWords (g : Bool) (x y : Int) (rest : List HostWord) (s : State) (hb : s.engine.busy = false)
    (hy : literalBits y ≠ 0#32) (hp : s.pending = runWords g x y ++ rest) :
    ∃ t, RunsTo 17 s t ∧ t.pending = rest ∧ t.engine = (acceptRun g (literalBits x) (literalBits y)).finished := by
  have hkeeps : ∀ w ∈ List.replicate 16 (encode .nop), w.keepsRun = true :=
    fun w hw => keepsRun_of_isNop w (isNop_of_mem_replicate 16 w hw)
  exact ⟨_, runsTo_of_request _ _ g _ _ _ rest s hb (decode_requestWord _ _ _) (portsOf_request _ _ _ _) hy
    (List.length_replicate ..) hkeeps hp, rfl, rfl⟩

/-- R71, R96, R137: a `.RUN` line's words with divisor zero end with the short-circuit's engine, its pulse over. -/
theorem runsTo_runWords_zero (g : Bool) (x y : Int) (rest : List HostWord) (s : State) (hb : s.engine.busy = false)
    (hy : literalBits y = 0#32) (hp : s.pending = runWords g x y ++ rest) :
    ∃ t, RunsTo 17 s t ∧ t.pending = rest ∧ t.engine = idleStep (acceptZero g (literalBits x) 0#32) := by
  have haccept : RunsTo 1 s
      { engine := acceptZero g (literalBits x) 0#32
        upstream := Upstream.capture { s.upstream with inFlight := destOf (request g (literalBits x) 0#32) }
          (acceptZero g (literalBits x) 0#32)
        pending := List.replicate 16 (encode .nop) ++ rest
        draws := s.draws + 1 } := by
    rw [runsTo_cons 0 s _ _ _ _ hp (decode_requestWord _ _ _), runsTo_zero, portsOf_request, hy]
    exact (clock_of_request_zero g _ _ { s with pending := List.replicate 16 (encode .nop) ++ rest } hb).symm
  exact ⟨_, runsTo_add 1 16 s _ _ haccept
    (runsTo_idle (encode .nop) (List.replicate 15 (encode .nop)) rest _ rfl (isNop_of_mem_replicate 16) rfl), rfl, rfl⟩

/-- R71: a `.RUN` line that is not rejected stands for its words. -/
theorem eq_runWords_of_assemble {g : Bool} {x y : Int} {ws : List HostWord} (h : assemble [runLine g x y] = some ws) :
    ws = runWords g x y := by
  rw [assemble_singleton] at h
  by_cases hxy : (literalInRange x && literalInRange y) = true
  · exact (Option.some.inj ((assembleLine_runLine g hxy).symm.trans h)).symm
  · have hnone : assembleLine (runLine g x y) = none := by
      cases g <;> exact assembleLine_of_not_wf _ hxy
    rw [hnone] at h
    cases h

/-- R71's last paragraph, for both modes. -/
theorem results_of_assembled_run (g : Bool) (x y : Int) (ws rest : List HostWord) (s : State) (hb : s.engine.busy = false)
    (h : assemble [runLine g x y] = some ws) :
    ∃ t, RunsTo 17 { s with pending := ws ++ rest } t ∧ t.pending = rest ∧
      (y % 2 ^ 32 ≠ 0 → t.engine.phase = .done ∧
        t.outputs.quotient = ResultSel.quotient.pick (acceptRun g (literalBits x) (literalBits y)).finished ∧
        t.outputs.remainder = ResultSel.remainder.pick (acceptRun g (literalBits x) (literalBits y)).finished) ∧
      (y % 2 ^ 32 = 0 → t.engine.phase = .idle ∧ t.outputs.quotient = 0xFFFFFFFF#32 ∧
        t.outputs.remainder = literalBits x ∧ t.outputs.divideByZero = true) := by
  obtain rfl := eq_runWords_of_assemble h
  rw [← literalBits_eq_zero_iff, ne_eq, ← literalBits_eq_zero_iff]
  by_cases hy : literalBits y = 0#32
  · obtain ⟨t, hrun, hp, he⟩ := runsTo_runWords_zero g x y rest { s with pending := runWords g x y ++ rest } hb hy rfl
    refine ⟨t, hrun, hp, fun hne => absurd hy hne, fun _ => ?_⟩
    have hbusy : t.engine.busy = false := by rw [he]; rfl
    rw [outputs_quotient_of_not_busy t hbusy, outputs_remainder_of_not_busy t hbusy, outputs_divideByZero, he]
    exact ⟨rfl, rfl, extractLsb'_setWidth_33 _, rfl⟩
  · obtain ⟨t, hrun, hp, he⟩ := runsTo_runWords g x y rest { s with pending := runWords g x y ++ rest } hb hy rfl
    refine ⟨t, hrun, hp, fun _ => ?_, fun hzero => absurd hzero hy⟩
    have hbusy : t.engine.busy = false := by rw [he]; rfl
    rw [outputs_quotient_of_not_busy t hbusy, outputs_remainder_of_not_busy t hbusy, he]
    exact ⟨rfl, rfl, rfl⟩

/-- Settles O58: both modes end with the finished request's results, read as the literals' integers. -/
theorem assembledRunLeavesResults : Obligations.AssembledRunLeavesResults := by
  intro x y ws rest s hb a b
  refine ⟨fun h => ?_, fun h => ?_⟩
  · obtain ⟨t, hrun, hp, hne, hzero⟩ := results_of_assembled_run false x y ws rest s hb h
    refine ⟨t, hrun, hp, fun hy => ?_, fun hy => ?_⟩
    · obtain ⟨hphase, hq, hr⟩ := hne hy
      rw [hq, hr, quotient_of_request, remainder_of_request, ← literalBits_toNat x, ← literalBits_toNat y]
      exact ⟨hphase, congrArg Nat.cast BitVec.toNat_udiv, congrArg Nat.cast BitVec.toNat_umod⟩
    · obtain ⟨hphase, hq, hr, hdbz⟩ := hzero hy
      exact ⟨hphase, hq, by rw [hr, literalBits_toNat], hdbz⟩
  · obtain ⟨t, hrun, hp, hne, hzero⟩ := results_of_assembled_run true x y ws rest s hb h
    rw [quotient_of_request, remainder_of_request] at hne
    exact ⟨t, hrun, hp, hne, hzero⟩

end Machine

end Sys2Proof

/-! SUPPORT. Proofs of the request family: the word's bits at an edge (R85, R86, R88, R89), the magnitudes (R91), and the
acceptance of a request (R95 to R98). -/

namespace Sys2Proof.Machine

/-! ### R85, R164: the step on the oldest listed word -/

theorem consumed_of_pending (s : State) (w : HostWord) (rest : List HostWord) (h : s.pending = w :: rest) :
    s.consumed = { s with pending := rest } := by
  rw [State.consumed, h, List.tail_cons]

/-- Settles O9: the oldest listed word is the one presented and the one consumed. -/
theorem stepRunsDecodedInstruction : Obligations.StepRunsDecodedInstruction := by
  intro s w rest i hp hi
  rw [step_of_decode s i (by rw [presented_of_pending s w rest hp, hi]), consumed_of_pending s w rest hp]

/-! ### R88, R89: what an edge that accepts nothing reads of the word -/

/-- R88, R110: a busy machine's edge depends on no port but `reset`, and on no destination. -/
theorem clock_congr_of_busy (p p' : Inputs) (dest dest' : Option Writeback) (s : State) (hr : p.reset = false)
    (hr' : p'.reset = false) (hb : s.engine.busy = true) : clock p dest s = clock p' dest' s := by
  rw [clock_of_busy p dest s hr hb, clock_of_busy p' dest' s hr' hb, edge_busy _ p _ hr hb, edge_busy _ p' _ hr' hb]

/-- R88: on a busy machine all instructions but RESET do the same. -/
theorem exec_congr_of_busy (i j : Instr) (s : State) (hi : i ≠ .reset) (hj : j ≠ .reset) (hb : s.engine.busy = true) :
    exec i s = exec j s := by
  rw [exec_eq_clock, exec_eq_clock,
    clock_congr_of_busy _ _ _ (destOf j) s (portsOf_reset_false i s hi) (portsOf_reset_false j s hj) hb]

/-- Settles O14: a busy engine accepts nothing, and its edge is NOP's. -/
theorem requestWhileBusyIsIgnored : Obligations.RequestWhileBusyIsIgnored := fun i s hi hb =>
  ⟨accepts_busy _ _ hb, _, exec_eq_clock .nop s,
    (exec_congr_of_busy i .nop s hi (by decide) hb).trans (exec_eq_clock .nop s)⟩

theorem decodeStep_ne_reset (w : StepWord) (h : w.getLsbD 66 = false) : decodeStep w ≠ .reset := by
  rw [ne_eq, decodeStep_eq_reset_iff, h]
  exact Bool.false_ne_true

/-- R89: step words with the same `r` and `s`, neither of them accepted, run alike: both are RESET, both are NOP, or both meet
a busy engine. -/
theorem exec_decodeStep_congr (s : State) (w w' : StepWord) (h66 : w.getLsbD 66 = w'.getLsbD 66)
    (h65 : w.getLsbD 65 = w'.getLsbD 65) (h : w.getLsbD 66 = true ∨ w.getLsbD 65 = false ∨ s.engine.busy = true) :
    exec (decodeStep w) s = exec (decodeStep w') s := by
  cases hr : w.getLsbD 66 with
  | true => rw [(decodeStep_eq_reset_iff w).2 hr, (decodeStep_eq_reset_iff w').2 (h66 ▸ hr)]
  | false =>
    obtain hreset | hs | hb := h
    · cases hr.symm.trans hreset
    · rw [(decodeStep_eq_nop_iff w).2 ⟨hr, hs⟩, (decodeStep_eq_nop_iff w').2 ⟨h66 ▸ hr, h65 ▸ hs⟩]
    · exact exec_congr_of_busy _ _ s (decodeStep_ne_reset w hr) (decodeStep_ne_reset w' (h66 ▸ hr)) hb

/-- R34: a step word without a request, or on a busy engine, or with reset asserted, is not accepted. -/
theorem acceptedOutput_step_eq_false (s : State) (w : StepWord) (hp : s.presented = .step w)
    (h : w.getLsbD 66 = true ∨ w.getLsbD 65 = false ∨ s.engine.busy = true) : s.acceptedOutput = false := by
  rw [acceptedOutput_step s w hp]
  obtain h | h | h := h <;> rw [h] <;> simp

/-- Settles O13: both words run alike on the state whose list has moved on. -/
theorem operandsIgnoredUnlessAccepted : Obligations.OperandsIgnoredUnlessAccepted := by
  intro s w w' rest h66 h65 h
  have hstep : ∀ v : StepWord,
      step { s with pending := .step v :: rest } = exec (decodeStep v) { s with pending := rest } :=
    fun v => stepRunsDecodedInstruction _ _ _ _ rfl (decode_step v)
  refine ⟨⟨acceptedOutput_step_eq_false _ w rfl h, acceptedOutput_step_eq_false _ w' rfl (h66 ▸ h65 ▸ h)⟩,
    _, (hstep w).trans (exec_eq_clock _ _), ?_⟩
  rw [hstep w', ← exec_decodeStep_congr { s with pending := rest } w w' h66 h65 h, exec_eq_clock]

/-! ### R91: the magnitude as an integer -/

/-- R91: in signed mode the magnitude is the library's absolute value. -/
theorem magnitude_signed_eq_abs (v : Word) : magnitude true v = v.abs := by
  rw [magnitude_eq, Bool.true_and, BitVec.abs_eq]

theorem magnitude_unsigned (v : Word) : magnitude false v = v := by
  rw [magnitude_eq, Bool.false_and, if_neg Bool.false_ne_true]

/-- R91: INT_MIN included, whose absolute value `2^31` is read without a sign. -/
theorem toNat_abs_eq_abs_toInt (v : Word) : (v.abs.toNat : Int) = |v.toInt| := by
  rw [BitVec.abs_eq]
  cases hv : v.msb with
  | false => rw [if_neg Bool.false_ne_true, BitVec.toInt_eq_toNat_of_msb hv, Nat.abs_cast]
  | true => rw [if_pos rfl, BitVec.toInt_eq_neg_toNat_neg_of_msb_true hv, abs_neg, Nat.abs_cast]

theorem toNat_abs_le (v : Word) : v.abs.toNat ≤ 2 ^ 31 := by
  rw [BitVec.abs_eq]
  cases hv : v.msb with
  | false => exact (BitVec.toNat_lt_of_msb_false hv).le
  | true => exact BitVec.toNat_neg_lt_of_msb v hv

/-- Settles O26: the signed magnitude is the word's absolute value. -/
theorem magnitudeIsAbsoluteValue : Obligations.MagnitudeIsAbsoluteValue := by
  intro v
  refine ⟨?_, ?_, magnitude_unsigned v, fun g => magnitude_eq_zero_iff g v⟩ <;> rw [magnitude_signed_eq_abs]
  · exact toNat_abs_eq_abs_toInt v
  · exact toNat_abs_le v

/-! ### R95 to R98: the acceptance -/

/-- The host reads a step word's result itself. -/
@[simp] theorem destOf_request (g : Bool) (a b : Word) : destOf (request g a b) = none := by
  cases g <;> rfl

theorem exec_request (g : Bool) (a b : Word) (s : State) :
    exec (request g a b) s = .next (clock (Inputs.request g a b) none s) := by
  rw [exec_eq_clock, portsOf_request, destOf_request]

/-- Settles O20: the edge starts the run, whose result nobody in the pipeline awaits. -/
theorem acceptanceStartsRun : Obligations.AcceptanceStartsRun := by
  intro g a b s hb hdvs
  refine ⟨_, exec_request g a b s, ?_⟩
  rw [clock_of_request_run g a b none s hb hdvs]
  exact ⟨acceptRun_eq g a b, rfl, rfl, rfl, rfl, readX_withInFlight s.upstream none⟩

/-- R96 with the latches written out. -/
theorem acceptZero_eq (g : Bool) (a : Word) :
    acceptZero g a 0#32 = {
      signedReg := g
      dvdMag := if g && a.msb then -a else a
      dvsMag := 0#32
      signQ := g && a.msb
      signR := g && a.msb
      dbz := true, quo := 0xFFFFFFFF#32, rem := a.setWidth 33, cycle := 0#4, busy := false, done := true } := by
  rw [acceptZero, magnitude_eq, (magnitude_eq_zero_iff g 0#32).2 rfl, quotientSign_eq, remainderSign_eq, BitVec.msb_zero,
    Bool.xor_false]

/-- R96: a step word's request with divisor zero completes at once, and the pipeline captures nothing. -/
theorem clock_of_host_request_zero (g : Bool) (a : Word) (s : State) (hb : s.engine.busy = false) :
    clock (Inputs.request g a 0#32) none s =
      { s with
        engine := acceptZero g a 0#32
        upstream := { s.upstream with inFlight := none }
        draws := s.draws + 1 } := by
  rw [clock_of_request_zero g a none s hb, capture_none _ _ rfl]

/-- Settles O21: the edge completes the request, and the outputs show the registers it wrote. -/
theorem zeroDivisorShortCircuit : Obligations.ZeroDivisorShortCircuit := by
  intro g a s hb
  refine ⟨_, exec_request g a 0#32 s, ?_⟩
  rw [clock_of_host_request_zero g a s hb]
  exact ⟨acceptZero_eq g a, rfl, rfl, extractLsb'_setWidth_33 a, rfl, rfl, readX_withInFlight s.upstream none⟩

/-- R98: the one step of a divide-by-zero request from the list. -/
theorem runsTo_request_zero (g : Bool) (a : Word) (rest : List HostWord) (s : State) (hb : s.engine.busy = false)
    (hp : s.pending = requestWord g a 0#32 :: rest) :
    RunsTo 1 s
      { engine := acceptZero g a 0#32
        upstream := { s.upstream with inFlight := none }
        pending := rest
        draws := s.draws + 1 } := by
  rw [runsTo_cons 0 s _ _ rest _ hp (decode_requestWord g a 0#32), runsTo_zero, portsOf_request, destOf_request,
    clock_of_host_request_zero g a { s with pending := rest } hb]

/-- Settles O54: the request's step, then an idle step. -/
theorem zeroDivisorTiming : Obligations.ZeroDivisorTiming := by
  intro g a w rest s hb hw
  have haccept := runsTo_request_zero g a (w :: rest) { s with pending := requestWord g a 0#32 :: w :: rest } hb rfl
  exact ⟨_, _, haccept, rfl, runsTo_add 1 1 _ _ _ haccept
    (runsTo_idle w [] rest _ (acceptZero_busy g a 0#32) (List.forall_mem_singleton.2 hw) rfl), rfl⟩

end Sys2Proof.Machine

/-! SUPPORT. Proofs of the iteration family: the restoring sub-step on integers and on quotient bits (R112, R119), the remainder
bound and the sign-bit test (R113, R117), and the iteration step (R114). -/

namespace Sys2Proof.Machine

/-! ### R112, R119: the quotient bit of a sub-step -/

/-- Setting bit `i` sets that bit and leaves the others. -/
theorem getLsbD_or_bit (q : Word) (i j : Nat) (hj : j < 32) :
    (q ||| (1#32 <<< i)).getLsbD j = (q.getLsbD j || decide (j = i)) := by
  have hbit : (1#32 <<< i).getLsbD j = decide (j = i) := by
    rw [← BitVec.twoPow_eq, BitVec.getLsbD_twoPow, ← Bool.decide_and, decide_eq_decide]
    exact ⟨fun h => h.2.symm, fun h => ⟨h ▸ hj, h.symm⟩⟩
  rw [BitVec.getLsbD_or, hbit]

/-- A sub-step sets bit `i` of the quotient when the divisor fits, and leaves every other bit. -/
theorem subStep_quo_getLsbD (dvd dvs : Word) (r : Rem33) (q : Word) (i j : Nat) (hj : j < 32) :
    (subStep dvd dvs r q i).2.getLsbD j =
      (q.getLsbD j || (decide (j = i) && decide (dvs.toNat ≤ shiftedValue dvd r i))) := by
  rcases Nat.lt_or_ge (shiftedValue dvd r i) dvs.toNat with hlt | hle
  · rw [(subStep_of_lt dvd dvs r q i hlt).2, decide_eq_false (Nat.not_le.2 hlt), Bool.and_false, Bool.or_false]
  · rw [(subStep_of_le dvd dvs r q i hle).2, getLsbD_or_bit q i j hj, decide_eq_true hle, Bool.and_true]

/-- Settles O27: the two outcomes of the comparison. -/
theorem restoringSubStep : Obligations.RestoringSubStep := by
  intro dvd dvs r q i _
  refine ⟨fun hle => ?_, subStep_of_lt dvd dvs r q i⟩
  obtain ⟨hrem, hquo⟩ := subStep_of_le dvd dvs r q i hle
  exact ⟨hrem, fun j hj => hquo ▸ getLsbD_or_bit q i j hj⟩

/-! ### R117: the remainder bound -/

/-- Under the remainder bound the guard bit is 0, so the shift loses nothing. -/
theorem shiftedValue_of_rem_lt (dvd dvs : Word) (r : Rem33) (i : Nat) (h : r.toNat < dvs.toNat) :
    shiftedValue dvd r i = 2 * r.toNat + (dvd.getLsbD i).toNat := by
  rw [shiftedValue, Nat.mod_eq_of_lt (h.trans dvs.isLt)]

/-- Under the remainder bound the shifted value is below twice the divisor. -/
theorem shiftedValue_lt_two_mul (dvd dvs : Word) (r : Rem33) (i : Nat) (h : r.toNat < dvs.toNat) :
    shiftedValue dvd r i < 2 * dvs.toNat := by
  rw [shiftedValue_of_rem_lt dvd dvs r i h]
  have hbit := Bool.toNat_le (dvd.getLsbD i)
  omega

/-- R117: one subtraction at most brings the remainder below the divisor again. -/
theorem subStep_rem_lt (dvd dvs : Word) (r : Rem33) (q : Word) (i : Nat) (h : r.toNat < dvs.toNat) :
    (subStep dvd dvs r q i).1.toNat < dvs.toNat := by
  have hsh := shiftedValue_lt_two_mul dvd dvs r i h
  rcases Nat.lt_or_ge (shiftedValue dvd r i) dvs.toNat with hlt | hle
  · rwa [(subStep_of_lt dvd dvs r q i hlt).1]
  · rw [(subStep_of_le dvd dvs r q i hle).1]
    omega

/-- Settles O28: the bound on the remainder after the step gives its guard bit, the one before it the shifted value's width. -/
theorem subStepKeepsRemainderBound : Obligations.SubStepKeepsRemainderBound := by
  intro dvd dvs r q i h
  have hlt := subStep_rem_lt dvd dvs r q i h
  refine ⟨hlt, Nat.testBit_lt_two_pow (hlt.trans dvs.isLt), ?_⟩
  have hsh := shiftedValue_lt_two_mul dvd dvs r i h
  rw [shiftedValue_of_rem_lt dvd dvs r i h] at hsh
  omega

/-! ### R113: the sign-bit test -/

/-- A difference that fits in `n` bits either way has a sign bit that tells which operand is the smaller. -/
theorem msb_sub_eq_decide_lt {n : Nat} (x y : BitVec (n + 1)) (hxy : x.toNat < y.toNat + 2 ^ n) (hy : y.toNat < 2 ^ n) :
    (x - y).msb = decide (x.toNat < y.toNat) := by
  rw [BitVec.msb_eq_decide, decide_eq_decide, Nat.add_sub_cancel]
  have hpow : 2 ^ (n + 1) = 2 * 2 ^ n := Nat.pow_succ'
  rcases Nat.lt_or_ge x.toNat y.toNat with hlt | hle
  · rw [BitVec.toNat_sub_of_lt (BitVec.lt_def.2 hlt)]
    omega
  · rw [BitVec.toNat_sub_of_le (BitVec.le_def.2 hle)]
    omega

/-- R112: under the remainder bound the shifted value is a 33-bit word. -/
theorem toNat_ofNat_shifted (dvd dvs : Word) (r : Rem33) (i : Nat) (h : r.toNat < dvs.toNat) :
    (BitVec.ofNat 33 (2 * r.toNat + (dvd.getLsbD i).toNat)).toNat = shiftedValue dvd r i := by
  rw [← shiftedValue_of_rem_lt dvd dvs r i h]
  have hsh := shiftedValue_lt_two_mul dvd dvs r i h
  exact Nat.mod_eq_of_lt (by omega)

/-- R112 under the remainder bound: the sub-step on the shifted value as a 33-bit word. -/
theorem subStep_of_rem_lt (dvd dvs : Word) (r : Rem33) (q : Word) (i : Nat) (h : r.toNat < dvs.toNat) :
    let sh : Rem33 := BitVec.ofNat 33 (2 * r.toNat + (dvd.getLsbD i).toNat)
    subStep dvd dvs r q i =
      if dvs.toNat ≤ sh.toNat then (sh - dvs.setWidth 33, q ||| BitVec.twoPow 32 i) else (sh, q) := by
  have hsh : (r.extractLsb' 0 32 ++ BitVec.ofBool (dvd.getLsbD i) : BitVec (32 + 1)) =
      BitVec.ofNat 33 (2 * r.toNat + (dvd.getLsbD i).toNat) :=
    BitVec.eq_of_toNat_eq ((shifted_toNat dvd r i).trans (toNat_ofNat_shifted dvd dvs r i h).symm)
  rw [subStep, hsh, BitVec.twoPow_eq]

/-- Settles O29: both sign bits tell whether the shifted value is below the divisor. -/
theorem signBitComparisonIsExact : Obligations.SignBitComparisonIsExact := by
  intro dvd dvs r q i h sh diff33 diff34
  have hsh : sh.toNat < 2 * dvs.toNat :=
    (toNat_ofNat_shifted dvd dvs r i h).trans_lt (shiftedValue_lt_two_mul dvd dvs r i h)
  have hdvs33 : (dvs.setWidth 33).toNat = dvs.toNat := BitVec.toNat_setWidth_of_le (by decide)
  have hdvs34 : (dvs.setWidth 34).toNat = dvs.toNat := BitVec.toNat_setWidth_of_le (by decide)
  have hsh34 : (sh.setWidth 34).toNat = sh.toNat := BitVec.toNat_setWidth_of_le (by decide)
  have hmsb33 : diff33.msb = decide (sh.toNat < dvs.toNat) := by
    rw [msb_sub_eq_decide_lt sh (dvs.setWidth 33) (by omega) (by omega), hdvs33]
  have hmsb34 : diff34.msb = decide (sh.toNat < dvs.toNat) := by
    rw [msb_sub_eq_decide_lt (sh.setWidth 34) (dvs.setWidth 34) (by omega) (by omega), hdvs34, hsh34]
  refine ⟨?_, hmsb34.trans hmsb33.symm⟩
  rw [subStep_of_rem_lt dvd dvs r q i h, hmsb33]
  simp only [decide_eq_false_iff_not, Nat.not_lt]
  rfl

/-! ### R114: the iteration step -/

/-- R114: an iterating edge under any instruction but RESET; `done` falls, so the pipeline captures nothing. -/
theorem exec_iterates (i : Instr) (s : State) (hi : i ≠ .reset) (hb : s.engine.busy = true) (hc : s.engine.cycle ≠ 15#4) :
    exec i s = .next { s with engine := iterateStep s.engine, draws := s.draws + 1 } := by
  have hr := portsOf_reset_false i s hi
  rw [exec_eq_clock, clock_of_busy _ _ _ hr hb, edge_busy _ _ _ hr hb, if_neg hc, capture_not_done _ _ (iterateStep_done _)]

/-- R114: the iteration step with the counter's value written out. -/
theorem iterateStep_eq (e : Engine) :
    iterateStep e = { e with
      rem := (twoSubSteps e).1
      quo := (twoSubSteps e).2
      cycle := BitVec.ofNat 4 (e.cycle.toNat + 1)
      done := false } := by
  rw [iterateStep, BitVec.ofNat_add, BitVec.ofNat_toNat, BitVec.setWidth_eq]

/-- Settles O18: the edge iterates, and the bit indices are R111's. -/
theorem iterationStep : Obligations.IterationStep := by
  intro i s hi hb hc
  rw [exec_iterates i s hi hb hc, iterateStep_eq]
  rfl

/-- R119: after two sub-steps a quotient bit stands where it stood before, or is one of the two the sub-steps set. -/
theorem twoSubSteps_quo_getLsbD (e : Engine) (j : Nat) (hj : j < 32) :
    (e.quo.getLsbD j = true → (twoSubSteps e).2.getLsbD j = true) ∧
    (j ≠ firstBit e.cycle → j ≠ secondBit e.cycle → (twoSubSteps e).2.getLsbD j = e.quo.getLsbD j) := by
  simp only [twoSubSteps, subStep_quo_getLsbD _ _ _ _ _ j hj]
  exact ⟨fun hset => by simp [hset], fun hfirst hsecond => by simp [hfirst, hsecond]⟩

/-- Settles O30: the quotient of the iteration step is that of its two sub-steps. -/
theorem quotientBitsOnlySet : Obligations.QuotientBitsOnlySet := by
  intro i s t hi hb hc h j hj
  obtain rfl := Host.Outcome.next.inj ((exec_iterates i s hi hb hc).symm.trans h)
  exact twoSubSteps_quo_getLsbD s.engine j hj

end Sys2Proof.Machine

/-! SUPPORT. Proofs of the completion family: the phases (R41, R131), the completing step (R130, R132, R133), what idle edges
leave alone (R137, R138), the results of whole requests (R139 to R141), and the result register (R143). -/

namespace Sys2Proof.Machine

/-! ### R41, R131: the phases -/

@[simp] theorem phase_eq_idle_iff (e : Engine) : e.phase = .idle ↔ e.busy = false ∧ e.done = false := by
  unfold Engine.phase
  cases e.busy <;> cases e.done <;> simp

@[simp] theorem phase_eq_done_iff (e : Engine) : e.phase = .done ↔ e.busy = false ∧ e.done = true := by
  unfold Engine.phase
  cases e.busy <;> cases e.done <;> simp

@[simp] theorem phase_eq_run_iff (e : Engine) (c : BitVec 4) :
    e.phase = .run c ↔ e.busy = true ∧ e.done = false ∧ e.cycle = c := by
  unfold Engine.phase
  cases e.busy <;> cases e.done <;> simp

/-- Settles O42: by the step kinds; `busy` alone tells IDLE and DONE from a run. -/
theorem phaseTransitionTable : Obligations.PhaseTransitionTable := by
  intro i s t h
  simp only [phase_eq_idle_iff, phase_eq_done_iff, phase_eq_run_iff]
  cases engineStep_of_exec h with
  | reset hi ht => simp [hi, ht]
  | iterate hi hb hc ht =>
    simp only [ht, iterateStep_busy, iterateStep_done, iterateStep_cycle, hb]
    simp +contextual [hi, hc]
  | complete hi hb hc ht => simp +contextual [hi, hb, hc, ht]
  | acceptRun hi hb hstart hd ht => simp [hi, hb, hstart, hd, ht]
  | acceptZero hi hb hstart hd ht => simp [hi, hb, hstart, hd, ht]
  | idle hi hb hstart ht => simp [hi, hb, hstart, ht]

/-! ### R137, R138: edges without a request -/

/-- From IDLE an idle step changes nothing. -/
theorem idleStep_of_not_done (e : Engine) (hd : e.done = false) : idleStep e = e := by
  rw [idleStep, ← hd]

/-- R137: NOP on an engine that is not busy. -/
theorem exec_nop_of_not_busy (s : State) (hb : s.engine.busy = false) :
    exec .nop s = .next { s with engine := idleStep s.engine, draws := s.draws + 1 } := by
  rw [exec_eq_clock, portsOf, destOf, clock_of_idle none s hb]

/-- R137, R138: idle edges leave the three result outputs, whatever is presented next and however many edges passed. -/
theorem outputs_of_idleStep (s : State) (rest : List HostWord) (n : Nat) (hb : s.engine.busy = false) :
    let t : State := { s with engine := idleStep s.engine, pending := rest, draws := n }
    t.outputs.quotient = s.outputs.quotient ∧ t.outputs.remainder = s.outputs.remainder ∧
    t.outputs.divideByZero = s.outputs.divideByZero := by
  simp [State.outputs, hb]

/-- Settles O17: the edge is an idle step of the engine. -/
theorem idleStepOnlyClearsDone : Obligations.IdleStepOnlyClearsDone := by
  intro s hb
  refine ⟨_, exec_nop_of_not_busy s hb, rfl, (phase_eq_idle_iff _).2 ⟨hb, rfl⟩, fun hidle => ?_,
    outputs_of_idleStep s s.pending (s.draws + 1) hb⟩
  exact idleStep_of_not_done s.engine ((phase_eq_idle_iff _).1 hidle).2

/-- Settles O41: no word leaves the state as it is, and one or more do to the engine what one idle step does. -/
theorem resultsStayStableWhileIdle : Obligations.ResultsStayStableWhileIdle := by
  intro ws rest s hws hb
  cases ws with
  | nil => exact ⟨_, (runsTo_zero _ _).2 rfl, hb, rfl, rfl, rfl, fun hne => absurd rfl hne, rfl, rfl⟩
  | cons w ws =>
    have hrun := runsTo_idle w ws rest { s with pending := w :: ws ++ rest } hb hws rfl
    obtain ⟨hquotient, hremainder, hflag⟩ := outputs_of_idleStep s rest (s.draws + (ws.length + 1)) hb
    exact ⟨_, hrun, hb, hquotient, hremainder, hflag, fun _ => rfl, rfl, rfl⟩

/-! ### R130, R132, R133: the completing step -/

/-- R132, R133: the sign correction by two's-complement negation. -/
theorem signCorrect_eq_ite_neg (sign : Bool) (m : Word) :
    signCorrect sign m = if sign = true ∧ m ≠ 0#32 then -m else m := by
  rw [signCorrect, neg32_eq_neg]

/-- R111, R115: the last two sub-steps are on bits 1 and 0. -/
theorem twoSubSteps_of_last_cycle (e : Engine) (hc : e.cycle = 15#4) :
    twoSubSteps e =
      subStep e.dvdMag e.dvsMag (subStep e.dvdMag e.dvsMag e.rem e.quo 1).1
        (subStep e.dvdMag e.dvsMag e.rem e.quo 1).2 0 := by
  rw [twoSubSteps, hc]
  rfl

/-- R130: a completing edge under any instruction but RESET. -/
theorem exec_completes (i : Instr) (s : State) (hi : i ≠ .reset) (hb : s.engine.busy = true) (hc : s.engine.cycle = 15#4) :
    exec i s = .next { s with
      engine := completeStep s.engine
      upstream := s.upstream.capture (completeStep s.engine)
      draws := s.draws + 1 } := by
  have hr := portsOf_reset_false i s hi
  rw [exec_eq_clock, clock_of_busy _ _ _ hr hb, edge_busy _ _ _ hr hb, if_pos hc]

/-- Settles O19: the edge completes the run, and the pipeline captures nothing it does not await. -/
theorem completionStep : Obligations.CompletionStep := by
  intro i s hi hb hc e p1 p2 qm rm
  have hlast : twoSubSteps e = p2 := twoSubSteps_of_last_cycle e hc
  refine ⟨_, exec_completes i s hi hb hc, ?_, rfl, capture_none _ (completeStep s.engine)⟩
  rw [completeStep, signCorrect_eq_ite_neg, signCorrect_eq_ite_neg, hlast]

/-! ### R139, R140, R141: the results of whole requests -/

/-- R189: a request with a non-zero divisor from the list, 17 edges later: the outputs show the finished engine. -/
theorem outputs_of_request (g : Bool) (a b : Word) (ws rest : List HostWord) (s : State) (hb : s.engine.busy = false)
    (hdvs : b ≠ 0#32) (hlen : ws.length = 16) (hws : ∀ w ∈ ws, w.keepsRun = true) :
    ∃ t, RunsTo 17 { s with pending := requestWord g a b :: ws ++ rest } t ∧
      t.outputs.done = true ∧ t.outputs.divideByZero = false ∧
      t.outputs.quotient = ResultSel.quotient.pick (acceptRun g a b).finished ∧
      t.outputs.remainder = ResultSel.remainder.pick (acceptRun g a b).finished ∧ t.pending = rest :=
  ⟨_, runsTo_of_request _ _ g a b ws rest { s with pending := requestWord g a b :: ws ++ rest } hb
    (decode_requestWord g a b) (portsOf_request g a b _) hdvs hlen hws rfl, rfl, rfl, rfl, rfl, rfl⟩

/-- Settles O51: the results are the library's unsigned quotient and remainder. -/
theorem unsignedDivisionResult : Obligations.UnsignedDivisionResult := by
  intro a b ws rest s hb hdvs hlen hws
  obtain ⟨t, hrun, hdone, hdbz, hq, hr, hp⟩ := outputs_of_request false a b ws rest s hb hdvs hlen hws
  have hquo : t.outputs.quotient.toNat = a.toNat / b.toNat := by
    rw [hq, quotient_of_request]
    exact BitVec.toNat_udiv
  have hrem : t.outputs.remainder.toNat = a.toNat % b.toNat := by
    rw [hr, remainder_of_request]
    exact BitVec.toNat_umod
  refine ⟨t, hrun, hdone, hdbz, hquo, hrem, ?_, ?_, hp⟩ <;> rw [hrem]
  · rw [hquo, Nat.div_add_mod']
  · exact Nat.mod_lt _ (BitVec.toNat_pos_of_ne_zero hdvs)

/-- R140: the truncating remainder of two words fits in a word. -/
theorem toInt_ofInt_tmod (a b : Word) :
    (BitVec.ofInt 32 (Int.tmod a.toInt b.toInt)).toInt = Int.tmod a.toInt b.toInt := by
  rw [← BitVec.toInt_srem, BitVec.ofInt_toInt]

theorem abs_tmod_lt_abs (x y : Int) (hy : y ≠ 0) : |Int.tmod x y| < |y| := by
  rw [Int.abs_eq_natAbs, Int.abs_eq_natAbs, Int.natAbs_tmod, Int.ofNat_lt]
  exact Nat.mod_lt _ (Int.natAbs_pos.2 hy)

/-- Settles O52: the results are the truncating quotient and remainder of the operands' integers. -/
theorem signedDivisionResult : Obligations.SignedDivisionResult := by
  intro a b ws rest s hb hdvs hlen hws
  obtain ⟨t, hrun, hdone, hdbz, hq, hr, hp⟩ := outputs_of_request true a b ws rest s hb hdvs hlen hws
  have hrem : t.outputs.remainder.toInt = Int.tmod a.toInt b.toInt := by
    rw [hr, remainder_of_request, if_pos rfl, toInt_ofInt_tmod]
  have hy : b.toInt ≠ 0 := fun h0 => hdvs (BitVec.eq_of_toInt_eq (h0.trans BitVec.toInt_zero.symm))
  refine ⟨t, hrun, hdone, hdbz, hq.trans (quotient_of_request true a b), ?_, ?_, ?_, hp⟩ <;> rw [hrem]
  · rw [Int.tmod_def, Int.mul_comm]
  · exact abs_tmod_lt_abs _ _ hy
  · intro hne
    rw [Int.sign_tmod, if_neg (mt Int.tmod_eq_zero_of_dvd hne)]

/-- Settles O53: INT_MIN's quotient by -1 is `2^31`, which reads as INT_MIN, and nothing is left over. -/
theorem signedOverflowResult : Obligations.SignedOverflowResult := by
  intro ws rest s hb hlen hws
  obtain ⟨t, hrun, hdone, hdbz, hq, hr, -⟩ :=
    outputs_of_request true 0x80000000#32 0xFFFFFFFF#32 ws rest s hb (by decide) hlen hws
  rw [quotient_of_request] at hq
  rw [remainder_of_request] at hr
  exact ⟨t, hrun, hdone, hq.trans (by decide), hr.trans (by decide), hdbz⟩

/-! ### R143: the result register -/

/-- In a done snapshot the result register takes the awaited result, or stays where nothing is awaited. -/
theorem capture_captured_of_done (u : Upstream) (e : Engine) (hd : e.done = true) :
    (u.capture e).captured = u.inFlight.elim u.captured (fun wb => wb.sel.capturedFrom e) := by
  cases hf : u.inFlight with
  | none => rw [capture_none u e hf, Option.elim_none]
  | some wb => rw [capture_of_done u e wb hd hf, receive_captured, Option.elim_some]

/-- An edge that completes no request leaves the result register. -/
theorem clock_captured_of_not_done (p : Inputs) (dest : Option Writeback) (s : State)
    (hd : (clock p dest s).engine.done = false) : (clock p dest s).upstream.captured = s.upstream.captured := by
  rw [clock_engine] at hd
  rw [clock_upstream, capture_not_done _ _ hd, track_captured]

/-- An edge that completes a request puts the result its instruction consumes into the result register. -/
theorem clock_captured_of_done (p : Inputs) (dest : Option Writeback) (s : State) (hr : p.reset = false)
    (hd : (clock p dest s).engine.done = true) :
    (clock p dest s).upstream.captured =
      (if accepts p s.engine = true then dest else s.upstream.inFlight).elim s.upstream.captured
        (fun wb => wb.sel.capturedFrom (clock p dest s).engine) := by
  rw [clock_engine] at hd ⊢
  rw [clock_upstream, capture_captured_of_done _ _ hd, track_captured, track_inFlight, hr, if_neg Bool.false_ne_true]

/-- Settles O59: a done snapshot is no reset's and shows the registers the result is taken from. -/
theorem resultRegisterCaptures : Obligations.ResultRegisterCaptures := by
  intro i s t h
  have hdoneIff := done_iff_of_exec h
  have hexclusive := busyAndDoneExclusive i s t h
  obtain rfl := eq_clock_of_exec i s t h
  cases hd : (clock (portsOf i s) (destOf i) s).engine.done with
  | false => exact clock_captured_of_not_done _ _ _ hd
  | true =>
    have hb : (clock (portsOf i s) (destOf i) s).engine.busy = false :=
      Bool.eq_false_iff.2 fun hbusy => hexclusive ⟨hbusy, hd⟩
    rw [clock_captured_of_done _ _ _ (portsOf_reset_false i s (hdoneIff.1 hd).1) hd, if_neg Bool.false_ne_true.symm,
      outputs_quotient_of_not_busy _ hb, outputs_remainder_of_not_busy _ hb, outputs_divideByZero]
    cases (if accepts (portsOf i s) s.engine = true then destOf i else s.upstream.inFlight) with
    | none => rfl
    | some wb => obtain ⟨rd, sel⟩ := wb; cases sel <;> rfl

end Sys2Proof.Machine

/-! SUPPORT. Proofs of the exception family: the host's list, the edge count and the awaited instruction (R164, R167, R181). -/

namespace Sys2Proof.Machine

/-- Settles O38: every instruction is a clock edge, whose reset port only RESET drives. -/
theorem hostSideFrame : Obligations.HostSideFrame := by
  intro i s t h
  obtain rfl := eq_clock_of_exec i s t h
  have hdrop : (clock (portsOf i s) (destOf i) s).engine.done = true ∨ (portsOf i s).reset = true ↔
      i = .reset ∨ (clock (portsOf i s) (destOf i) s).engine.done = true := by
    rw [portsOf_reset_iff, or_comm]
  exact ⟨clock_pending _ _ _, clock_draws _ _ _, (clock_inFlight _ _ _).trans (if_congr hdrop rfl rfl)⟩

end Sys2Proof.Machine

/-! SUPPORT. Proofs of the reset family: what a reset edge writes and leaves (R180 to R183), the shape of a whole request in its
snapshots (R184, R189), and divide-by-zero requests back to back (R136, R190). -/

namespace Sys2Proof.Machine

/-! ### R180 to R183: the reset edge -/

/-- R180, log 11: a reset edge in any phase; the pipeline drops what it awaits and captures nothing. -/
theorem exec_reset (s : State) :
    exec .reset s = .next { s with
      engine := resetStep s.draws
      upstream := { s.upstream with inFlight := none }
      draws := s.draws + 1 } := by
  have hedge : s.engine.edge s.draws Inputs.resetting = resetStep s.draws := if_pos rfl
  rw [exec_eq_clock, portsOf, clock, hedge, capture_not_done _ _ (resetStep_done _)]
  rfl

/-- Settles O16: the draws are those of the edge's own index. -/
theorem resetStepWrites : Obligations.ResetStepWrites := fun s =>
  ⟨_, exec_reset s, rfl, rfl, rfl, rfl, rfl, rfl, rfl, rfl, rfl, rfl, rfl, rfl, readX_withInFlight s.upstream none, rfl, rfl⟩

/-- Settles O45: bit 66 alone makes the word RESET, and RESET leads to IDLE whatever the engine held. -/
theorem resetFromPowerOn : Obligations.ResetFromPowerOn := by
  intro e w rest h66
  have hi : decode (.step w) = .ok .reset := by rw [decode_step, (decodeStep_eq_reset_iff w).2 h66]
  exact ⟨acceptedOutput_step_eq_false _ w rfl (.inl h66), _,
    (stepRunsDecodedInstruction _ _ rest _ rfl hi).trans (exec_reset _), (phase_eq_idle_iff _).2 ⟨rfl, rfl⟩, rfl, rfl⟩

/-- R137: in IDLE, words without a request, none included, only pass. -/
theorem runsTo_nops_of_idle (ws rest : List HostWord) (s : State) (hb : s.engine.busy = false) (hd : s.engine.done = false)
    (hws : ∀ w ∈ ws, w.isNop = true) (hp : s.pending = ws ++ rest) :
    RunsTo ws.length s { s with pending := rest, draws := s.draws + ws.length } := by
  cases ws with
  | nil =>
    rw [List.nil_append] at hp
    rw [List.length_nil, runsTo_zero, ← hp]
    rfl
  | cons w ws =>
    have hrun := runsTo_idle w ws rest s hb hws hp
    rwa [idleStep_of_not_done s.engine hd] at hrun

/-- Settles O46: the reset edge leads to IDLE with nothing awaited, and the later edges only pass. -/
theorem resetAbandonsRun : Obligations.ResetAbandonsRun := by
  intro ws rest s hws
  have hreset := (stepRunsDecodedInstruction { s with pending := encode .reset :: ws ++ rest } _ (ws ++ rest) _ rfl
    (decode_encode .reset)).trans (exec_reset _)
  exact ⟨_, (runsTo_succ _ _ _).2 ⟨_, hreset, runsTo_nops_of_idle ws rest _ rfl rfl hws rfl⟩, rfl, rfl,
    readX_withInFlight s.upstream none, rfl, rfl⟩

/-! ### R184, R189: the snapshots of a request with a non-zero divisor -/

/-- R34: a busy engine accepts nothing, whatever is presented. -/
theorem acceptedOutput_of_busy (s : State) (hb : s.engine.busy = true) : s.acceptedOutput = false := by
  cases hi : decode s.presented with
  | ok i => rw [acceptedOutput_of_decode s i hi, accepts_busy _ _ hb]
  | error r => rw [State.acceptedOutput, hi]

theorem acceptedOutput_requestWord (g : Bool) (a b : Word) (rest : List HostWord) (s : State)
    (hp : s.pending = requestWord g a b :: rest) : s.acceptedOutput = !s.engine.busy :=
  acceptedOutput_of_request s _ ((congrArg decode (presented_of_pending s _ rest hp)).trans (decode_requestWord g a b))
    (portsOf_request g a b s)

/-- R114, R116: from `RUN(c)`, edges that end before the completing one, whatever but reset is presented at them, each count one
cycle of the run. -/
theorem runsTo_within_run (ws rest : List HostWord) (s : State) (hb : s.engine.busy = true) (hd : s.engine.done = false)
    (hlen : s.engine.cycle.toNat + ws.length < 16) (hws : ∀ w ∈ ws, w.keepsRun = true) (hp : s.pending = ws ++ rest) :
    ∃ t, RunsTo ws.length s t ∧ t.engine.busy = true ∧ t.engine.done = false ∧
      t.engine.cycle.toNat = s.engine.cycle.toNat + ws.length := by
  induction ws generalizing s with
  | nil => exact ⟨s, (runsTo_zero s s).2 rfl, hb, hd, rfl⟩
  | cons w ws ih =>
    rw [List.forall_mem_cons] at hws
    rw [List.length_cons] at hlen ⊢
    obtain ⟨i, hi, hne⟩ := (keepsRun_iff w).1 hws.1
    have hc : s.engine.cycle ≠ 15#4 := by bv_omega
    have hstep := (stepRunsDecodedInstruction s w (ws ++ rest) i hp hi).trans
      (exec_iterates i { s with pending := ws ++ rest } hne hb hc)
    have hcycle := cycle_succ_toNat _ hc
    obtain ⟨t, hrun, htb, htd, htc⟩ :=
      ih { s with engine := iterateStep s.engine, pending := ws ++ rest, draws := s.draws + 1 } hb rfl
        (by rw [iterateStep_cycle, hcycle]; omega) hws.2 rfl
    refine ⟨t, (runsTo_succ _ _ _).2 ⟨_, hstep, hrun⟩, htb, htd, ?_⟩
    rw [htc, iterateStep_cycle, hcycle]
    omega

/-- R95, R184: after the acceptance of a request with a non-zero divisor, and the run's edges that follow it up to the
completing one, the engine is in the run, its counter at the number of those edges. -/
theorem runsTo_busy_snapshot (g : Bool) (a b : Word) (ws rest : List HostWord) (s : State) (hb : s.engine.busy = false)
    (hdvs : b ≠ 0#32) (hlen : ws.length < 16) (hws : ∀ w ∈ ws, w.keepsRun = true)
    (hp : s.pending = requestWord g a b :: ws ++ rest) :
    ∃ t, RunsTo (ws.length + 1) s t ∧ t.engine.busy = true ∧ t.engine.done = false ∧
      t.engine.cycle.toNat = ws.length := by
  obtain ⟨t, hrun, htb, htd, htc⟩ := runsTo_within_run ws rest
    { s with
      engine := acceptRun g a b
      upstream := { s.upstream with inFlight := none }
      pending := ws ++ rest
      draws := s.draws + 1 }
    rfl rfl ((Nat.zero_add _).trans_lt hlen) hws rfl
  refine ⟨t, ?_, htb, htd, htc.trans (Nat.zero_add _)⟩
  rwa [runsTo_cons _ s t _ (ws ++ rest) _ hp (decode_requestWord g a b), portsOf_request, destOf_request,
    clock_of_request_run g a b none { s with pending := ws ++ rest } hb hdvs]

/-- Settles O50: the first `k` of the 16 words lead to the snapshot with cycle `k`, all of them to the finished request's. -/
theorem busyShape : Obligations.BusyShape := by
  intro g a b ws s hb hdvs hlen hws g' a' b' rest s₀
  refine ⟨?_, fun k hk => ?_, ?_⟩
  · rw [acceptedOutput_requestWord g a b _ s₀ rfl]
    exact congrArg not hb
  · have htake : (ws.take k).length = k := List.length_take_of_le (by omega)
    have hsplit : s₀.pending = requestWord g a b :: ws.take k ++ (ws.drop k ++ requestWord g' a' b' :: rest) := by
      rw [List.cons_append, ← List.append_assoc, List.take_append_drop, ← List.cons_append]
    obtain ⟨t, hrun, htb, htd, htc⟩ := runsTo_busy_snapshot g a b (ws.take k) _ s₀ hb hdvs (htake.trans_lt hk)
      (fun w hw => hws w (List.mem_of_mem_take hw)) hsplit
    rw [htake] at hrun htc
    exact ⟨t, hrun, htb, htd, htc, acceptedOutput_of_busy t htb⟩
  · exact ⟨_, runsTo_of_request _ _ g a b ws (requestWord g' a' b' :: rest) s₀ hb (decode_requestWord g a b)
      (portsOf_request g a b s₀) hdvs hlen hws rfl, rfl, rfl, acceptedOutput_requestWord g' a' b' rest _ rfl⟩

/-! ### R136, R190: divide-by-zero requests at consecutive edges -/

/-- R96, R190: each request of the list finds the engine not busy and completes at its own edge. -/
theorem runsTo_requests_zero (reqs : List (Bool × Word)) (last : Bool × Word) (rest : List HostWord) (s : State)
    (hb : s.engine.busy = false)
    (hp : s.pending = (reqs ++ [last]).map (fun p => requestWord p.1 p.2 0#32) ++ rest) :
    RunsTo (reqs.length + 1) s
      { engine := acceptZero last.1 last.2 0#32
        upstream := { s.upstream with inFlight := none }
        pending := rest
        draws := s.draws + (reqs.length + 1) } := by
  induction reqs generalizing s with
  | nil => exact runsTo_request_zero last.1 last.2 rest s hb hp
  | cons p reqs ih =>
    have hfirst := runsTo_request_zero p.1 p.2 _ s hb hp
    have hrun := runsTo_add 1 _ _ _ _ hfirst (ih _ (acceptZero_busy p.1 p.2 0#32) rfl)
    simpa only [List.length_cons, Nat.add_assoc, Nat.add_comm 1] using hrun

/-- Settles O55: the last request's registers are what the outputs show. -/
theorem zeroDivisorThroughput : Obligations.ZeroDivisorThroughput := fun reqs last rest _ hb =>
  ⟨_, runsTo_requests_zero reqs last rest _ hb rfl, rfl, rfl, rfl, rfl, extractLsb'_setWidth_33 last.2, rfl⟩

end Sys2Proof.Machine
